-- ==== Sys2Proof/Word.lean ====
section
/-! DEFINITION. The widths of the engine's values (rule R6): every one is an unsigned bit vector (rule R8). -/

namespace Sys2Proof

/-- A polynomial, table entry, seed, accumulator or checksum: `XLEN` = 32 bits (R6). -/
abbrev Word := BitVec 32

/-- A buffer byte, a seed byte or a table index: 8 bits (R6). -/
abbrev Byte := BitVec 8

/-- One word presented on the command port: 40 bits, not bytes of a memory (R60). -/
abbrev CommandWord := BitVec 40

/-- A register number of the read port: 9 bits (R32). -/
abbrev RegNum := BitVec 9

/-- The engine's table memory: `NENT` = 256 entries of 32 bits (R6, R24). -/
abbrev Table := Vector Word 256

end Sys2Proof
end

