-- ==== Sys2Proof/Syntax.lean ====
section
/-! DEFINITION. The seven commands of the opcode map (rule R63), each with its operand at the width the spec gives it
(R62). The pseudo-instruction COMPUTE (R68) has no word of its own and is `computeSequence` in Machine/Assembler.lean. -/

namespace Sys2Proof

/-- One command. No operand is signed, scaled or shifted (R62). -/
inductive Instr where
  /-- `NOP`, opcode 0x00 (R114). -/
  | nop
  /-- `TGEN poly`, opcode 0x01 (R83). -/
  | tgen (poly : Word)
  /-- `INIT`, opcode 0x02 (R93). -/
  | init
  /-- `FSEED seed`, opcode 0x03 (R94). -/
  | fseed (seed : Word)
  /-- `FOLDB byte`, opcode 0x04 (R96). -/
  | foldb (byte : Byte)
  /-- `FOLDM size`, opcode 0x05 (R97). -/
  | foldm (size : Word)
  /-- `FIN`, opcode 0x06 (R99). -/
  | fin
  deriving DecidableEq, Repr

end Sys2Proof
end

