-- ==== Sys2Proof/WellFormed.lean ====
section
/-! DEFINITION. Which command words and which commands are well formed. The opcode map of rule R63 stands here as the
spec prints it, as rows of mask and match, independently of the field-by-field decoder of Decode.lean. -/

namespace Sys2Proof

/-- One row of the opcode map (R63). -/
structure OpcodeRow where
  mnemonic : String
  mask : CommandWord
  pattern : CommandWord
  deriving DecidableEq, Repr

/-- "a word `w` selects the row when `w AND mask = match`" (R63). -/
def OpcodeRow.selects (r : OpcodeRow) (w : CommandWord) : Bool := w &&& r.mask == r.pattern

/-- The seven rows of rule R63. -/
def opcodeMap : List OpcodeRow :=
  [ ⟨"NOP",   0xFFFFFFFFFF, 0x0000000000⟩,
    ⟨"TGEN",  0xFF00000000, 0x0100000000⟩,
    ⟨"INIT",  0xFFFFFFFFFF, 0x0200000000⟩,
    ⟨"FSEED", 0xFF00000000, 0x0300000000⟩,
    ⟨"FOLDB", 0xFFFFFFFF00, 0x0400000000⟩,
    ⟨"FOLDM", 0xFF00000000, 0x0500000000⟩,
    ⟨"FIN",   0xFFFFFFFFFF, 0x0600000000⟩ ]

/-- A word is well formed when it selects a row of the opcode map; every other word is illegal (R65). -/
def wordWellFormed (w : CommandWord) : Bool := opcodeMap.any fun r => r.selects w

/-- The mnemonic of a command, as the opcode map spells it. -/
def Instr.mnemonic : Instr → String
  | .nop => "NOP"
  | .tgen _ => "TGEN"
  | .init => "INIT"
  | .fseed _ => "FSEED"
  | .foldb _ => "FOLDB"
  | .foldm _ => "FOLDM"
  | .fin => "FIN"

/-- "Operand values are never illegal" (R66): at the operand widths of R62 every command is well formed. A width that
does not fit is refused where it can occur: in a word (`wordWellFormed`) and in assembler source (R67). -/
def Instr.wellFormed : Instr → Bool
  | .nop => true
  | .tgen _ => true
  | .init => true
  | .fseed _ => true
  | .foldb _ => true
  | .foldm _ => true
  | .fin => true

end Sys2Proof
end

