-- ==== Sys2Proof/Decode.lean ====
section
/-! DEFINITION. The decoder of rules R61 to R65, total on the 2^40 words and a function of the word alone (R64), and after
it the encoder, written from the same format. -/

namespace Sys2Proof

/-- `op = word[39:32]` (R61). -/
def opField (w : CommandWord) : BitVec 8 := w.extractLsb' 32 8

/-- `imm = word[31:0]` (R61). -/
def immField (w : CommandWord) : Word := w.extractLsb' 0 32

/-- Why a word is illegal: the two kinds of rule R65, (a) and (b) with (c). Both raise IllegalCommand (R127). -/
inductive IllegalWord where
  /-- R65 (a): an opcode in 0x07 .. 0xFF, reserved for nothing. -/
  | unassignedOpcode
  /-- R65 (b), (c): a reserved operand bit is not 0. -/
  | reservedOperandBits
  deriving DecidableEq, Repr

/-- A command without operand: "all of `imm[31:0]` is reserved and must be 0" (R62). -/
def withoutOperand (i : Instr) (imm : Word) : Except IllegalWord Instr :=
  if imm = 0 then .ok i else .error .reservedOperandBits

/-- `byte = imm[7:0]`; `imm[31:8]` is reserved and must be 0 (R62). -/
def withByteOperand (f : Byte → Instr) (imm : Word) : Except IllegalWord Instr :=
  if imm.extractLsb' 8 24 = 0 then .ok (f (imm.extractLsb' 0 8)) else .error .reservedOperandBits

/-- The decoder (R63, R65). -/
def decode (w : CommandWord) : Except IllegalWord Instr :=
  if opField w = 0x00 then withoutOperand .nop (immField w)
  else if opField w = 0x01 then .ok (.tgen (immField w))
  else if opField w = 0x02 then withoutOperand .init (immField w)
  else if opField w = 0x03 then .ok (.fseed (immField w))
  else if opField w = 0x04 then withByteOperand .foldb (immField w)
  else if opField w = 0x05 then .ok (.foldm (immField w))
  else if opField w = 0x06 then withoutOperand .fin (immField w)
  else .error .unassignedOpcode

/-- Format `C` (R61): the word `{op, imm}`. -/
def formatC (op : BitVec 8) (imm : Word) : CommandWord := op ++ imm

/-- FOLDB's operand field: `{imm[31:8], imm[7:0]}` (R62). -/
def byteImm (reserved : BitVec 24) (byte : Byte) : Word := reserved ++ byte

/-- The word of a command (R62, R63); reserved bits are 0 (R67). -/
def encode : Instr → CommandWord
  | .nop => formatC 0x00 0
  | .tgen poly => formatC 0x01 poly
  | .init => formatC 0x02 0
  | .fseed seed => formatC 0x03 seed
  | .foldb byte => formatC 0x04 (byteImm 0 byte)
  | .foldm size => formatC 0x05 size
  | .fin => formatC 0x06 0

/-- The word whose bits 0 to nbits-1 are those of `w` and whose bits above are 0. The opcode table numbers the one 40-bit
word as rule R61 does: bit 0 is its least significant bit. -/
def tableWord (nbits w : Nat) : CommandWord := BitVec.ofNat 40 (w % 2 ^ nbits)

/-- What the decoder reads from a word given as a number, for the host's tick list; none where it is illegal. -/
def decodeTableWord (nbits w : Nat) : Option Instr :=
  match decode (tableWord nbits w) with
  | .ok i => some i
  | .error _ => none

end Sys2Proof
end

