-- ==== Sys2Proof/Config.lean ====
section
/-! DEFINITION. What the spec leaves open: the unspecified values of rule R33 as a free constant, and the one value the
model names for the data registers of `State.reset`. The engine has no implementation-defined parameter (R6); the
buffer and its length are state of the model (R7, R41). -/

namespace Sys2Proof

/-- DESIGN CHOICE (log entry 3). The n-th unspecified value that the machine hands out (R33: "An unspecified value is
any 32-bit value"). It has no body, so nothing can be proved about it: not that it is zero, not that two of them agree. -/
opaque Config.freeWord : Nat → Word

/-- DESIGN CHOICE (log entry 1). What `TABLE[i]`, `POLY`, `ACC` and `RESULT` hold in `State.reset`; the spec gives none
(R34). Unsafe; no statement rests on it. -/
def Config.resetWord : Word := 0

end Sys2Proof
end

