-- ==== Sys2Proof/Machine/State.lean ====
section
/-! DEFINITION. The state of the machine: the engine's architectural state (rule R20), the buffer attached to it (R41), and
the host's side of its ports (R22, R151, R32). Everything is plain data. -/

namespace Sys2Proof.Machine

/-- `PHASE` (R28), in the order of its encodings 0 to 3. -/
inductive Phase where
  /-- 0: no checksum in progress, no result held. -/
  | idle
  /-- 1: `ACC = 0xFFFFFFFF`, nothing folded yet. -/
  | inited
  /-- 2: the seed step has been passed or skipped. -/
  | folding
  /-- 3: `RESULT` holds the checksum of the last finished sequence. -/
  | done
  deriving DecidableEq, Repr

/-- `CAUSE` (R125), in the order of its codes 0 to 4; codes 5 to 15 are "never produced" and have no constructor. -/
inductive Cause where
  /-- 0: `F = 0`. -/
  | none
  /-- 1: FOLDM with `size > BLEN` (R126). -/
  | invalidLength
  /-- 2: the word selects no row of the opcode map (R127). -/
  | illegalCommand
  /-- 3: the command is not legal in the current phase (R129). -/
  | sequenceError
  /-- 4: a fold command with `TV = 0` (R128). -/
  | tableNotValid
  deriving DecidableEq, Repr

/-- What the host can do to the engine: "A model has two host actions that change engine state, `Reset` and `Command(w)`,
and one that does not, `RegRead(n)`" (R151); and it may attach another buffer between two commands (R41). -/
inductive HostAction where
  /-- Assert the reset input (R150). -/
  | reset
  /-- Present one command word on the command port (R60). -/
  | command (w : CommandWord)
  /-- Read register number `n` through the read port (R32). -/
  | regRead (n : RegNum)
  /-- Attach the byte sequence `bytes` to the buffer port (R41). -/
  | attach (bytes : List Byte)
  deriving DecidableEq, Repr

/-- The machine. The first eight fields are the engine's complete state (R20). -/
structure State where
  /-- `TABLE[0..255]` (R24). -/
  table : Table
  /-- `POLY`, the polynomial of the most recent TGEN (R25). -/
  poly : Word
  /-- `ACC`, the accumulator (R26). -/
  acc : Word
  /-- `RESULT`, the checksum of the most recent FIN (R27). -/
  result : Word
  /-- `TV`, table valid (R29). -/
  tv : Bool
  /-- `PHASE` (R28). -/
  phase : Phase
  /-- `F`, faulted; also the level of the `fault` output (R30, R135). -/
  f : Bool
  /-- `CAUSE` (R30, R125). -/
  cause : Cause
  /-- The attached buffer; `BLEN` is its length (R41). -/
  buf : List Byte
  /-- MODEL (log entry 2): what the host is about to do, the next action first; the rest of `prog` (R22). -/
  port : List HostAction
  /-- The host-side index `pc`: how many command words have been presented (R22). -/
  pc : Nat
  /-- MODEL (log entry 8): what the last read-port access returned to the host, if there was one. -/
  readData : Option Word
  /-- MODEL (log entry 3): how many unspecified values have been drawn. -/
  draws : Nat
  deriving DecidableEq, Repr

/-- Outcome faults. There are none: the engine's four faults are next states (R131), and the one access the spec gives no
meaning, `MemRead(i)` with `i >= BLEN` (R42), cannot be written down in this model. -/
inductive Fault where
  deriving DecidableEq, Repr

/-- Refusals. -/
inductive Refusal where
  /-- Raised by `exec`'s arm of a command without meaning; no arm raises it. Safe: the machine stops. -/
  | notModelled (mnemonic : String)
  deriving DecidableEq, Repr

/-- What a step or a command answers. -/
abbrev Result := Host.Outcome State Fault Refusal

/-- The machine after reset (R34, R150): `TV`, `PHASE`, `F`, `CAUSE` as the spec says; the data registers at the value log
entry 1 names; no buffer bytes (log entry 6), nothing presented, read or drawn yet (log entries 2, 3, 7, 8). -/
def State.reset : State where
  table := Vector.replicate 256 Config.resetWord
  poly := Config.resetWord
  acc := Config.resetWord
  result := Config.resetWord
  tv := false
  phase := .idle
  f := false
  cause := .none
  buf := []
  port := []
  pc := 0
  readData := Option.none
  draws := 0

end Sys2Proof.Machine
end

