-- ==== Sys2Proof/Machine/Ops.lean ====
section
/-! DEFINITION. The named operations on the state: register and table writes, entering a phase, raising a fault (rule R131),
the shared order of checks of every command (R111), reset (R150), and the reads of table (R90) and buffer (R42). -/

namespace Sys2Proof.Machine

/-! ### Tables -/

/-- `f i, f (i+1), …`, n entries. -/
def tabulateFrom (f : Byte → Word) : Nat → Nat → List Word
  | 0, _ => []
  | n + 1, i => f (BitVec.ofNat 8 i) :: tabulateFrom f n (i + 1)

theorem length_tabulateFrom (f : Byte → Word) (n i : Nat) : (tabulateFrom f n i).length = n := by
  induction n generalizing i with
  | zero => rfl
  | succ n ih => simp [tabulateFrom, ih]

/-- The table whose entry `i` is `f i`. -/
def tabulate (f : Byte → Word) : Table := ⟨⟨tabulateFrom f 256 0⟩, length_tabulateFrom f 256 0⟩

/-- `T[idx]`: an 8-bit index is always a valid table index (R90). -/
def lookup (T : Table) (idx : Byte) : Word := T[idx.toNat]'idx.isLt

/-! ### The buffer -/

/-- `MemRead(i, 1)` (R42): the byte at index `i` of the attached buffer. It takes the proof that `i < BLEN`, so a read
past the end cannot be written down ("impossible by construction", 93_implementation_defined.md U2). `BLEN` is `buf.length`,
a property of the attached buffer and no register (R41). -/
def memRead (buf : List Byte) (i : Nat) (h : i < buf.length) : Byte := buf[i]

/-- The cells of a byte sequence that starts at address `i`. -/
def cellsFrom : Nat → List Byte → List Host.Cell
  | _, [] => []
  | i, b :: bs => (i, b) :: cellsFrom (i + 1) bs

/-- The buffer space (R40) as address and byte pairs, addresses `0 .. BLEN-1`. An address that is not listed does not exist. -/
def bufferCells (buf : List Byte) : List Host.Cell := cellsFrom 0 buf

/-- The canonical form of the buffer space: the addresses are `i, i+1, …` without gap or repeat, from `i = 0`. -/
def Memory.wfFrom : Nat → List Host.Cell → Bool
  | _, [] => true
  | i, c :: cs => c.1 == i && Memory.wfFrom (i + 1) cs

/-- See `Memory.wfFrom`. -/
def Memory.wf (m : List Host.Cell) : Bool := Memory.wfFrom 0 m

/-! ### Writes -/

/-- TGEN's three writes, which always land together (R84). -/
def State.writeTable (poly : Word) (T : Table) (s : State) : State := { s with table := T, poly := poly, tv := true }

/-- `ACC <- a`. -/
def State.writeAcc (a : Word) (s : State) : State := { s with acc := a }

/-- `RESULT <- r`. -/
def State.writeResult (r : Word) (s : State) : State := { s with result := r }

/-- `PHASE <- p`. -/
def State.enter (p : Phase) (s : State) : State := { s with phase := p }

/-! ### Faults -/

/-- `raise X` (R131): "`F <- 1`; `CAUSE <- code(X)`; the command ends. Nothing else is written". There is no handler, no
saved state, no vector and no return (R134): the only exit is reset. -/
def State.raise (c : Cause) (s : State) : State := { s with f := true, cause := c }

/-- Steps 1, 3, 4 and 6 of rule R111 for a decoded command: discarded while `F = 1` (R133); SequenceError unless legal in
the current phase (R112); TableNotValid if it needs the table and `TV = 0`; else its effect (step 5, FOLDM's length
check, stands at the head of FOLDM's effect). -/
def command (legal : Phase → Bool) (needsTable : Bool) (effect : State → State) (s : State) : Result :=
  if s.f then .next s
  else if !legal s.phase then .next (s.raise .sequenceError)
  else if needsTable && !s.tv then .next (s.raise .tableNotValid)
  else .next (effect s)

/-! ### The host's actions -/

/-- Reset (R34, R150): flags cleared, data registers unspecified. DESIGN CHOICE (log entry 4): each data register gets a
free value of its own (`TABLE[i]`, then `POLY`, `ACC`, `RESULT`). The host's side is untouched (log entry 7). -/
def State.resetEngine (s : State) : State :=
  { s with
    table := tabulate fun i => Config.freeWord (s.draws + i.toNat)
    poly := Config.freeWord (s.draws + 256)
    acc := Config.freeWord (s.draws + 257)
    result := Config.freeWord (s.draws + 258)
    tv := false
    phase := .idle
    f := false
    cause := .none
    draws := s.draws + 259 }

/-- The host attaches another buffer (R41). -/
def State.attachBuffer (bytes : List Byte) (s : State) : State := { s with buf := bytes }

/-- The host has presented a command word: "sets `pc <- pc + 1`, whatever the command did" (R22). -/
def State.countCommand (s : State) : State := { s with pc := s.pc + 1 }

/-- What remains for the host to do. -/
def State.setPort (rest : List HostAction) (s : State) : State := { s with port := rest }

/-- The read port returns a specified value. -/
def State.returnSpecified (v : Word) (s : State) : State := { s with readData := some v }

/-- The read port returns an unspecified value (R33), a fresh free value per read (log entry 3). -/
def State.returnUnspecified (s : State) : State :=
  { s with readData := some (Config.freeWord s.draws), draws := s.draws + 1 }

end Sys2Proof.Machine
end

