-- ==== Sys2Proof/Machine/Flags.lean ====
section
/-! DEFINITION. The flags: encodings of `PHASE` and `CAUSE`, the `STATUS` view (rule R31), the `fault` output (R135), and the
phases in which a command is legal (R112). -/

namespace Sys2Proof.Machine

/-- The encoding of `PHASE` (R28). -/
def phaseCode : Phase → BitVec 2
  | .idle => 0
  | .inited => 1
  | .folding => 2
  | .done => 3

/-- The code of a cause (R125). -/
def causeCode : Cause → BitVec 4
  | .none => 0
  | .invalidLength => 1
  | .illegalCommand => 2
  | .sequenceError => 3
  | .tableNotValid => 4

/-- `STATUS = zext_32({CAUSE[3:0], F, PHASE[1:0], TV})` (R31). -/
def statusWord (s : State) : Word :=
  (causeCode s.cause ++ BitVec.ofBool s.f ++ phaseCode s.phase ++ BitVec.ofBool s.tv).setWidth 32

/-- The `fault` output, "whose level equals `F`" (R135). -/
def faultOutput (s : State) : Bool := s.f

/-- NOP, TGEN and INIT are legal in every phase (R112). -/
def anyPhase : Phase → Bool
  | .idle => true
  | .inited => true
  | .folding => true
  | .done => true

/-- FSEED is legal in INITED only (R112). -/
def seedPhase : Phase → Bool
  | .idle => false
  | .inited => true
  | .folding => false
  | .done => false

/-- FOLDB and FOLDM are legal in INITED and FOLDING (R112). -/
def foldPhase : Phase → Bool
  | .idle => false
  | .inited => true
  | .folding => true
  | .done => false

/-- FIN is legal in INITED and FOLDING (R112). -/
def finPhase : Phase → Bool
  | .idle => false
  | .inited => true
  | .folding => true
  | .done => false

end Sys2Proof.Machine
end

