-- ==== Sys2Proof/Machine/Control.lean ====
section
/-! DEFINITION. The command NOP (rule R114). The engine has no control transfer, system or privileged command (R117, R118). -/

namespace Sys2Proof.Machine

/-- NOP (R114): "No register, flag or table entry changes". -/
def execNop (s : State) : Result := command anyPhase false (fun t => t) s

end Sys2Proof.Machine
end

