-- ==== Sys2Proof/Machine/Operands.lean ====
section
/-! DEFINITION. The operand forms (rule R62). The fields `poly`, `seed`, `byte` and `size` are taken from the word by
Decode.lean; here stand the uses an operand is put to: the seed's bytes (R46) and `size` as an unsigned number. -/

namespace Sys2Proof.Machine

/-- `seedbyte(seed, k) = seed[8k+7 : 8k]` (R46). -/
def seedByte (seed : Word) (k : Nat) : Byte := seed.extractLsb' (8 * k) 8

/-- The four seed bytes in fold order, least significant first: fixed little-endian (R46). -/
def seedBytes (seed : Word) : List Byte := [seedByte seed 0, seedByte seed 1, seedByte seed 2, seedByte seed 3]

/-- `size`, "an unsigned number 0 .. 2^32-1" (R62), compared with `BLEN` as a natural number (93_implementation_defined.md
U18). -/
def sizeOperand (size : Word) : Nat := size.toNat

end Sys2Proof.Machine
end

