-- ==== Sys2Proof/Machine/TableGen.lean ====
section
/-! DEFINITION. The lookup-table generator: the pure functions of rules R80 to R82 and the command TGEN (R83). -/

namespace Sys2Proof.Machine

/-- One shift/XOR step (R80): the test is on the low bit of `v` before the shift, and the shift is logical (R9). -/
def bitstep (poly v : Word) : Word := if v.getLsbD 0 then poly ^^^ (v >>> 1) else v >>> 1

/-- `n` steps: `vk = bitstep(poly, v(k-1))` (R81). -/
def bitsteps (poly : Word) : Nat → Word → Word
  | 0, v => v
  | n + 1, v => bitstep poly (bitsteps poly n v)

/-- `entry(poly, i)` (R81): "Exactly 8 steps, never fewer for small `i`". -/
def entry (poly : Word) (i : Byte) : Word := bitsteps poly 8 (i.setWidth 32)

/-- `table(poly)` (R82). -/
def crcTable (poly : Word) : Table := tabulate (entry poly)

/-- TGEN's effect (R83); it always rebuilds (R86). -/
def buildTable (poly : Word) (s : State) : State := (s.writeTable poly (crcTable poly)).enter .idle

/-- TGEN poly (R83). -/
def execTgen (poly : Word) (s : State) : Result := command anyPhase false (buildTable poly) s

end Sys2Proof.Machine
end

