-- ==== Sys2Proof/Machine/Folding.lean ====
section
/-! DEFINITION. The accumulator datapath (rules R90, R92), the commands INIT, FSEED, FOLDB, FOLDM and FIN (R93 to R99), and
the checksum as one function (R100). -/

namespace Sys2Proof.Machine

/-- The accumulator's initial value (R6, R93). -/
def initialAcc : Word := 0xFFFFFFFF

/-- The final XOR value (R6, R99). -/
def finalXor : Word := 0xFFFFFFFF

/-- `fold(T, acc, b) = T[(acc XOR b) & 0xFF] XOR (acc >> 8)` (R90). -/
def fold (T : Table) (acc : Word) (b : Byte) : Word :=
  lookup T ((acc ^^^ b.setWidth 32).setWidth 8) ^^^ (acc >>> 8)

/-- `foldseq(T, acc, bs)` (R92). -/
def foldseq (T : Table) : Word → List Byte → Word
  | acc, [] => acc
  | acc, b :: bs => foldseq T (fold T acc b) bs

/-- FOLDM's loop (R97): `n` folds of the bytes at indices `i, i+1, …`, ascending, none past the end of the buffer. -/
def foldBuffer (T : Table) (buf : List Byte) : (n i : Nat) → i + n ≤ buf.length → Word → Word
  | 0, _, _, acc => acc
  | n + 1, i, h, acc => foldBuffer T buf n (i + 1) (by omega) (fold T acc (memRead buf i (by omega)))

/-- INIT's effect (R93). -/
def initAcc (s : State) : State := (s.writeAcc initialAcc).enter .inited

/-- FSEED's effect (R94): the four bytes are folded when the whole seed is not 0; "if seed = 0, ACC is not written". -/
def foldSeed (seed : Word) (s : State) : State :=
  (if seed = 0 then s else s.writeAcc (foldseq s.table s.acc (seedBytes seed))).enter .folding

/-- FOLDB's effect (R96). -/
def foldByte (byte : Byte) (s : State) : State := (s.writeAcc (fold s.table s.acc byte)).enter .folding

/-- FOLDM's length check (step 5 of R111) and effect (R97). The comparison is before any `memRead` and on natural numbers. -/
def foldPrefix (size : Nat) (s : State) : State :=
  if h : size ≤ s.buf.length then
    (s.writeAcc (foldBuffer s.table s.buf size 0 (by omega) s.acc)).enter .folding
  else s.raise .invalidLength

/-- FIN's effect (R99): `ACC` keeps the value before the inversion. -/
def finish (s : State) : State := (s.writeResult (s.acc ^^^ finalXor)).enter .done

/-- INIT (R93). -/
def execInit (s : State) : Result := command anyPhase false initAcc s

/-- FSEED seed (R94). -/
def execFseed (seed : Word) (s : State) : Result := command seedPhase true (foldSeed seed) s

/-- FOLDB byte (R96). -/
def execFoldb (byte : Byte) (s : State) : Result := command foldPhase true (foldByte byte) s

/-- FOLDM size (R97). -/
def execFoldm (size : Word) (s : State) : Result := command foldPhase true (foldPrefix (sizeOperand size)) s

/-- FIN (R99); it reads no table entry and does not need `TV = 1`. -/
def execFin (s : State) : Result := command finPhase false finish s

/-- The accumulator after the seed step (R100). -/
def seedStep (T : Table) (seed acc : Word) : Word := if seed = 0 then acc else foldseq T acc (seedBytes seed)

/-- `crc(poly, bs, seed)` (R100). -/
def crc (poly : Word) (bs : List Byte) (seed : Word) : Word :=
  foldseq (crcTable poly) (seedStep (crcTable poly) seed initialAcc) bs ^^^ finalXor

end Sys2Proof.Machine
end

