-- ==== Sys2Proof/Machine/Dispatch.lean ====
section
/-! DEFINITION. `exec`: what the engine does with a decoded command, one arm per command of the opcode map (rule R63). -/

namespace Sys2Proof.Machine

def exec (i : Instr) (s : State) : Host.Outcome State Fault Refusal :=
  match i with
  | .nop => Sys2Proof.Machine.execNop s
  | .tgen poly => Sys2Proof.Machine.execTgen poly s
  | .init => Sys2Proof.Machine.execInit s
  | .fseed seed => Sys2Proof.Machine.execFseed seed s
  | .foldb byte => Sys2Proof.Machine.execFoldb byte s
  | .foldm size => Sys2Proof.Machine.execFoldm size s
  | .fin => Sys2Proof.Machine.execFin s

end Sys2Proof.Machine
end

