-- ==== Sys2Proof/Machine/Port.lean ====
section
/-! DEFINITION. The engine's ports: the command port (rules R60, R111), the read port (R32, R33), the reset input (R150) and
the buffer port (R41), and one action of the host on them. -/

namespace Sys2Proof.Machine

/-- One command word presented (R111): discarded undecoded while `F = 1` (R133); IllegalCommand when it selects no row
(R127); else executed. -/
def presentWord (w : CommandWord) (s : State) : Result :=
  if s.f then .next s
  else match decode w with
    | .error _ => .next (s.raise .illegalCommand)
    | .ok i => exec i s

/-- The value of read-port register `n` where the spec specifies one (R32): `TABLE[i]` is number `0x100 + i`. -/
def specifiedRead (n : RegNum) (s : State) : Option Word :=
  if n = 0x000 then some (statusWord s)
  else if n = 0x001 then if s.phase = .done then some s.result else Option.none
  else if n = 0x002 then if s.phase = .idle then Option.none else some s.acc
  else if n = 0x003 then if s.tv then some s.poly else Option.none
  else if n.getLsbD 8 then if s.tv then some (lookup s.table (n.extractLsb' 0 8)) else Option.none
  else Option.none

/-- `RegRead(n)` (R32): the value goes to the host and no engine state changes; where none is specified, an unspecified
value (R33). -/
def readPort (n : RegNum) (s : State) : State :=
  match specifiedRead n s with
  | some v => s.returnSpecified v
  | Option.none => s.returnUnspecified

/-- One action of the host (R151). -/
def perform (a : HostAction) (s : State) : Result :=
  match a with
  | .reset => .next s.resetEngine
  | .command w => presentWord w s.countCommand
  | .regRead n => .next (readPort n s)
  | .attach bytes => .next (s.attachBuffer bytes)

/-- The host's next action, taken from the queue; with nothing presented the engine "holds its state unchanged" (R144). -/
def hostStep (s : State) : Result :=
  match s.port with
  | [] => .next s
  | a :: rest => perform a (s.setPort rest)

/-- The host presents `w` next, before what it was about to do. -/
def presentNext (w : CommandWord) (s : State) : State := s.setPort (.command w :: s.port)

end Sys2Proof.Machine
end

