-- ==== Sys2Proof/Machine/Step.lean ====
section
/-! DEFINITION. The step: one action of the host on the engine's ports (rules R110, R151). -/

namespace Sys2Proof.Machine

/-- One step. -/
def step (s : State) : Host.Outcome State Fault Refusal := hostStep s

/-- The state in which the next step presents the word whose low `nbits` bits are `w`'s. The engine fetches nothing (R22,
R50): its next command is the one the host presents next. -/
def State.withFetchWord (s : State) (nbits w : Nat) : State := presentNext (tableWord nbits w) s

end Sys2Proof.Machine
end

