-- ==== Sys2Proof/Machine/Assembler.lean ====
section
/-! DEFINITION. The assembler (rule R67) on one source line, and the pseudo-instruction COMPUTE (R68). The spec fixes the
mnemonics, the operands, the two number forms and the comment; the rest of the text form is log entry 12. -/

namespace Sys2Proof.Machine

/-- `COMPUTE poly, size, seed`: "five commands, one per algorithm step" (R68). -/
def computeSequence (poly size seed : Word) : List Instr := [.tgen poly, .init, .fseed seed, .foldm size, .fin]

/-- Why a source line is refused. -/
inductive AsmError where
  /-- The first token is no mnemonic in capitals. -/
  | unknownMnemonic
  /-- Not the operands the command has. -/
  | wrongOperands
  /-- An operand that is no number. -/
  | badNumber
  /-- "The assembler refuses an operand that does not fit its field (`FOLDB 256`)" (R67). -/
  | operandTooWide
  deriving DecidableEq, Repr

/-- The token read so far, if any. -/
def flushToken : List Char → List (List Char)
  | [] => []
  | c :: cs => [c :: cs]

/-- The tokens of a line, up to the `;` that starts a comment; a comma is a token of its own. -/
def tokens : List Char → List Char → List (List Char)
  | [], cur => flushToken cur
  | c :: cs, cur =>
    if c = ';' then flushToken cur
    else if c = ' ' ∨ c = '\t' then flushToken cur ++ tokens cs []
    else if c = ',' then flushToken cur ++ [','] :: tokens cs []
    else tokens cs (cur ++ [c])

/-- A decimal digit. -/
def decDigit (c : Char) : Option Nat := if '0' ≤ c ∧ c ≤ '9' then some (c.toNat - 48) else none

/-- A hexadecimal digit, in capitals or not. -/
def hexDigit (c : Char) : Option Nat :=
  if 'A' ≤ c ∧ c ≤ 'F' then some (c.toNat - 55)
  else if 'a' ≤ c ∧ c ≤ 'f' then some (c.toNat - 87)
  else decDigit c

/-- The number that a list of digits in hexadecimal (true) or decimal (false) continues `n` to. -/
def readDigits (hex : Bool) : List Char → Nat → Option Nat
  | [], n => some n
  | c :: cs, n =>
    match if hex then hexDigit c else decDigit c with
    | some d => readDigits hex cs ((if hex then 16 else 10) * n + d)
    | none => none

/-- "Numbers are hexadecimal with `0x` or decimal without" (R67). -/
def readNumber : List Char → Option Nat
  | [] => none
  | ['0', 'x'] => none
  | '0' :: 'x' :: cs => readDigits true cs 0
  | cs => readDigits false cs 0

/-- An operand for a field of the given width. -/
def readOperand (width : Nat) (cs : List Char) : Except AsmError (BitVec width) :=
  match readNumber cs with
  | none => .error .badNumber
  | some n => if n < 2 ^ width then .ok (BitVec.ofNat width n) else .error .operandTooWide

/-- The three operands of COMPUTE, as the contract orders them: `poly, size, seed` (R68). -/
def readCompute (poly size seed : List Char) : Except AsmError (List Instr) :=
  match readOperand 32 poly, readOperand 32 size, readOperand 32 seed with
  | .ok p, .ok n, .ok s => .ok (computeSequence p n s)
  | .error e, _, _ => .error e
  | _, .error e, _ => .error e
  | _, _, .error e => .error e

/-- A command with one operand. -/
def oneOperand {width : Nat} (f : BitVec width → Instr) (cs : List Char) : Except AsmError (List Instr) :=
  match readOperand width cs with
  | .ok v => .ok [f v]
  | .error e => .error e

/-- The mnemonics of R67 and R68. -/
def asmMnemonics : List (List Char) :=
  [['N', 'O', 'P'], ['T', 'G', 'E', 'N'], ['I', 'N', 'I', 'T'], ['F', 'S', 'E', 'E', 'D'], ['F', 'O', 'L', 'D', 'B'],
   ['F', 'O', 'L', 'D', 'M'], ['F', 'I', 'N'], ['C', 'O', 'M', 'P', 'U', 'T', 'E']]

/-- The commands of one source line; a line without tokens has none (R67, R68). -/
def assembleLine (line : List Char) : Except AsmError (List Instr) :=
  match tokens line [] with
  | [] => .ok []
  | [['N', 'O', 'P']] => .ok [.nop]
  | [['T', 'G', 'E', 'N'], a] => oneOperand .tgen a
  | [['I', 'N', 'I', 'T']] => .ok [.init]
  | [['F', 'S', 'E', 'E', 'D'], a] => oneOperand .fseed a
  | [['F', 'O', 'L', 'D', 'B'], a] => oneOperand .foldb a
  | [['F', 'O', 'L', 'D', 'M'], a] => oneOperand .foldm a
  | [['F', 'I', 'N']] => .ok [.fin]
  | [['C', 'O', 'M', 'P', 'U', 'T', 'E'], a, [','], b, [','], c] => readCompute a b c
  | m :: _ => if asmMnemonics.contains m then .error .wrongOperands else .error .unknownMnemonic

/-- The command words of one source line. -/
def assembleWords (line : List Char) : Except AsmError (List CommandWord) :=
  match assembleLine line with
  | .ok is => .ok (is.map encode)
  | .error e => .error e

end Sys2Proof.Machine
end

