-- ==== Sys2Proof/Safety.lean ====
section
/-! DEFINITION. What claims about runs are stated in: when a run has delivered a checksum (rule R154), the invariant that
every step keeps, agreement of two states on what the spec specifies (R33), and commands executed one after another. -/

namespace Sys2Proof.Machine

/-- "A run has delivered a checksum exactly when it ends with `F = 0` and `PHASE = 3`" (R154). -/
def State.delivered (s : State) : Prop := s.f = false ∧ s.phase = .done

/-- "A run that ends with `F = 1` has failed" (R154). -/
def State.failed (s : State) : Prop := s.f = true

/-- What holds after reset and is kept by every step. -/
structure State.Inv (s : State) : Prop where
  /-- `CAUSE` "is 0 while `F = 0`", and holds the code of the fault while `F = 1` (R30). -/
  cause_none_iff : s.cause = .none ↔ s.f = false
  /-- The table invariant (R84). -/
  table_of_poly : s.tv = true → ∀ i : Byte, lookup s.table i = entry s.poly i
  /-- INITED: "`ACC = 0xFFFFFFFF`, nothing folded yet" (R28). -/
  acc_of_inited : s.phase = .inited → s.acc = 0xFFFFFFFF
  /-- FOLDING is entered by fold commands only, and they need the table (R28, R112). -/
  tv_of_folding : s.phase = .folding → s.tv = true
  /-- DONE: `RESULT` holds the checksum of the accumulator, which FIN left in place (R28, R99). -/
  result_of_done : s.phase = .done → s.result = s.acc ^^^ 0xFFFFFFFF

/-- Two states agree on everything the spec specifies: flags, phase, buffer, and each data register under its condition in
the read-port table (R32). What the host does next and what it last read are no part of it. -/
structure Agree (s t : State) : Prop where
  tv : s.tv = t.tv
  phase : s.phase = t.phase
  f : s.f = t.f
  cause : s.cause = t.cause
  buf : s.buf = t.buf
  table : s.tv = true → s.table = t.table
  poly : s.tv = true → s.poly = t.poly
  acc : s.phase ≠ .idle → s.acc = t.acc
  result : s.phase = .done → s.result = t.result

/-- The engine's complete state (R20) is the same in both. -/
structure SameEngine (s t : State) : Prop where
  table : s.table = t.table
  poly : s.poly = t.poly
  acc : s.acc = t.acc
  result : s.result = t.result
  tv : s.tv = t.tv
  phase : s.phase = t.phase
  f : s.f = t.f
  cause : s.cause = t.cause

/-- Which command is legal in which phase: the table of rule R112, row by row. -/
def legalIn : Instr → Phase → Bool
  | .nop, _ => true
  | .tgen _, _ => true
  | .init, _ => true
  | .fseed _, p => p == .inited
  | .foldb _, p => p == .inited || p == .folding
  | .foldm _, p => p == .inited || p == .folding
  | .fin, p => p == .inited || p == .folding

/-- The column "Needs `TV = 1`" of rule R112. -/
def needsTable : Instr → Bool
  | .nop => false
  | .tgen _ => false
  | .init => false
  | .fseed _ => true
  | .foldb _ => true
  | .foldm _ => true
  | .fin => false

/-- The column "`PHASE` afterwards" of rule R112. -/
def phaseAfter : Instr → Phase → Phase
  | .nop, p => p
  | .tgen _, _ => .idle
  | .init, _ => .inited
  | .fseed _, _ => .folding
  | .foldb _, _ => .folding
  | .foldm _, _ => .folding
  | .fin, _ => .done

/-- Step 5 of rule R111: `size <= BLEN`, asked of FOLDM alone. -/
def lengthOk : Instr → State → Bool
  | .foldm size, s => decide (size.toNat ≤ s.buf.length)
  | .nop, _ => true
  | .tgen _, _ => true
  | .init, _ => true
  | .fseed _, _ => true
  | .foldb _, _ => true
  | .fin, _ => true

/-- Commands executed one after another, in the order presented (R48). -/
def execAll : List Instr → State → Result
  | [], s => .next s
  | i :: is, s =>
    match exec i s with
    | .next t => execAll is t
    | .fault r => .fault r
    | .refused r => .refused r

/-- The host presents the words of these commands, in order, and then goes on with `rest`. -/
def presented (is : List Instr) (rest : List HostAction) : List HostAction :=
  is.map (fun i => HostAction.command (encode i)) ++ rest

end Sys2Proof.Machine
end

