-- ==== Sys2Proof/Certificates/Slice0/Obligations.lean ====
section
/-! DEFINITION. The statements for the provers. Each docstring names the rule of spec/ it formalises. None is about a test
program, and none rests on a value that log entry 1 names. That the host's actions wait in `State.port` and that one step
takes the first of them is the model's choice (log entry 2), in every statement that names `port` or `step`. -/

open Sys2Proof Sys2Proof.Machine

/-! ### The pure functions -/

/-- R80, bit by bit: each bit of a step is the next higher bit of `v` (0 above bit 31) XOR, when the low bit of `v` is 1,
the polynomial's bit. -/
def Obligations.BitstepBitByBit : Prop :=
  ∀ (poly v : Word) (k : Nat), k < 32 →
    (bitstep poly v).getLsbD k = ((v.getLsbD 0 && poly.getLsbD k) ^^ (decide (k + 1 < 32) && v.getLsbD (k + 1)))

/-- R85 (a) to (d), which the spec gives as facts that follow from R80 and R81, with the form of `bitstep` they follow from
and the eight entries that determine the table. -/
def Obligations.EntryLaws : Prop :=
  ∀ poly : Word,
    entry poly 0 = 0 ∧
    entry poly 0x80 = poly ∧
    (∀ i j : Byte, entry poly (i ^^^ j) = entry poly i ^^^ entry poly j) ∧
    (∀ v : Word, bitstep poly v = (v >>> 1) ^^^ (poly &&& (if v.getLsbD 0 then 0xFFFFFFFF else 0))) ∧
    (∀ i : Byte, entry poly i =
      (List.range 8).foldl (fun x k => x ^^^ (if i.getLsbD k then entry poly (1#8 <<< k) else 0)) 0) ∧
    (∀ i : Byte, entry 0 i = 0)

/-- R90: the fold's index is `acc[7:0] XOR b`, and the shifted accumulator has a zero top byte. -/
def Obligations.FoldByFields : Prop :=
  ∀ (T : Table) (acc : Word) (b : Byte),
    fold T acc b = lookup T (acc.extractLsb' 0 8 ^^^ b) ^^^ ((0x00#8 ++ acc.extractLsb' 8 24 : BitVec 32))

/-- R92: folding a concatenation is folding its parts in order. -/
def Obligations.FoldseqOfAppend : Prop :=
  ∀ (T : Table) (acc : Word) (xs ys : List Byte), foldseq T acc (xs ++ ys) = foldseq T (foldseq T acc xs) ys

/-- R97's closed form: FOLDM's loop over ascending indices is `foldseq` of the first `n` bytes. -/
def Obligations.FoldLoopIsFoldseqOfPrefix : Prop :=
  ∀ (T : Table) (buf : List Byte) (n : Nat) (h : 0 + n ≤ buf.length) (acc : Word),
    foldBuffer T buf n 0 h acc = foldseq T acc (buf.take n)

/-- R116: the checksum of the empty sequence without a seed is 0 for every polynomial, and seed 0 is the checksum with the
seed step left out. -/
def Obligations.EmptyAndUnseededChecksum : Prop :=
  ∀ poly : Word, crc poly [] 0 = 0 ∧
    ∀ bs : List Byte, crc poly bs 0 = foldseq (crcTable poly) 0xFFFFFFFF bs ^^^ 0xFFFFFFFF

/-- Under polynomial 0 a fold only shifts, so all non-zero seeds give the same checksum (R116, V25). -/
def Obligations.ZeroPolynomialShifts : Prop :=
  (∀ (acc : Word) (bs : List Byte), foldseq (crcTable 0) acc bs = acc >>> (8 * bs.length)) ∧
  (∀ (bs : List Byte) (seed : Word), seed ≠ 0 → crc 0 bs seed = 0xFFFFFFFF)

/-- 93_implementation_defined.md U4 and V26: under the standard polynomial two different non-zero seeds never give the same
checksum of a byte sequence, and exactly one non-zero seed gives the checksum of seed 0. -/
def Obligations.StandardPolynomialSeedsNeverCollide : Prop :=
  (∀ (bs : List Byte) (a b : Word), a ≠ 0 → b ≠ 0 → a ≠ b → crc 0xEDB88320 bs a ≠ crc 0xEDB88320 bs b) ∧
  (∀ (bs : List Byte) (a : Word), a ≠ 0 → (crc 0xEDB88320 bs a = crc 0xEDB88320 bs 0 ↔ a = 0x6DD90A9D))

/-- R95, which the spec marks as derived: a seeded checksum is the unseeded checksum of the four seed bytes, least
significant first, followed by the bytes; and FSEED is four FOLDB commands with those bytes. -/
def Obligations.SeedIsFourLeadingBytes : Prop :=
  (∀ (poly seed : Word) (bs : List Byte), seed ≠ 0 →
    crc poly bs seed = crc poly
      ([seed.extractLsb' 0 8, seed.extractLsb' 8 8, seed.extractLsb' 16 8, seed.extractLsb' 24 8] ++ bs) 0) ∧
  (∀ (s : State) (seed : Word), s.f = false → s.phase = .inited → s.tv = true → seed ≠ 0 →
    ∃ t, exec (.fseed seed) s = .next t ∧
      execAll [.foldb (seed.extractLsb' 0 8), .foldb (seed.extractLsb' 8 8), .foldb (seed.extractLsb' 16 8),
        .foldb (seed.extractLsb' 24 8)] s = .next t)

/-! ### Encoding -/

/-- Decoding the word of a command gives the command back, for every command and operand. -/
def Obligations.DecodeOfEncode : Prop :=
  ∀ i : Instr, i.wellFormed = true → decode (encode i) = .ok i

/-- A legal word is the word of the command it decodes to: no two words mean the same, and no operand bit is dropped. -/
def Obligations.EncodeOfDecode : Prop :=
  ∀ (w : CommandWord) (i : Instr), decode w = .ok i → encode i = w

/-- R63: a word selects the row of a command (`w AND mask = match`) exactly when it decodes to that command, with the
operand bits of the row's pattern; and the seven rows are disjoint. -/
def Obligations.DecodeSelectsItsRow : Prop :=
  ∀ w : CommandWord,
    (decode w = .ok .nop ↔ w &&& 0xFFFFFFFFFF = 0x0000000000) ∧
    (∀ p, decode w = .ok (.tgen p) ↔ w &&& 0xFF00000000 = 0x0100000000 ∧ p = w.extractLsb' 0 32) ∧
    (decode w = .ok .init ↔ w &&& 0xFFFFFFFFFF = 0x0200000000) ∧
    (∀ p, decode w = .ok (.fseed p) ↔ w &&& 0xFF00000000 = 0x0300000000 ∧ p = w.extractLsb' 0 32) ∧
    (∀ b, decode w = .ok (.foldb b) ↔ w &&& 0xFFFFFFFF00 = 0x0400000000 ∧ b = w.extractLsb' 0 8) ∧
    (∀ n, decode w = .ok (.foldm n) ↔ w &&& 0xFF00000000 = 0x0500000000 ∧ n = w.extractLsb' 0 32) ∧
    (decode w = .ok .fin ↔ w &&& 0xFFFFFFFFFF = 0x0600000000) ∧
    (∀ r ∈ opcodeMap, ∀ r' ∈ opcodeMap, r.selects w = true → r'.selects w = true → r = r')

/-- R65: the illegal words are exactly (a), (b), (c); executing one raises IllegalCommand; and no word but NOP's executes
as NOP. -/
def Obligations.IllegalWordsExactly : Prop :=
  ∀ w : CommandWord,
    ((∃ e, decode w = .error e) ↔
      (0x07 ≤ (w.extractLsb' 32 8).toNat) ∨
      ((w.extractLsb' 32 8 = 0x00 ∨ w.extractLsb' 32 8 = 0x02 ∨ w.extractLsb' 32 8 = 0x06) ∧ w.extractLsb' 0 32 ≠ 0) ∨
      (w.extractLsb' 32 8 = 0x04 ∧ w.extractLsb' 8 24 ≠ 0)) ∧
    ((∃ e, decode w = .error e) ↔ ∀ r ∈ opcodeMap, r.selects w = false) ∧
    (∀ s : State, s.f = false → (∃ e, decode w = .error e) →
      presentWord w s = .next { s with f := true, cause := .illegalCommand }) ∧
    (decode w = .ok .nop ↔ w = 0)

/-- Words written out from rule R63 (V40) decode as the spec lists them. -/
def Obligations.SampleWordsDecode : Prop :=
  decode 0x0000000000 = .ok .nop ∧ decode 0x01EDB88320 = .ok (.tgen 0xEDB88320) ∧
  decode 0x0200000000 = .ok .init ∧ decode 0x0312345678 = .ok (.fseed 0x12345678) ∧
  decode 0x04000000FF = .ok (.foldb 0xFF) ∧ decode 0x05FFFFFFFF = .ok (.foldm 4294967295) ∧
  decode 0x0600000000 = .ok .fin

/-- R67, R68, for whole lines: a command with an operand is assembled when the number fits its field (8 bits for FOLDB, 32
bits for TGEN, FSEED, FOLDM and the operands of COMPUTE), to exactly that command, and refused when it does not; a command
without operand is assembled to itself; the words are those of the commands, and no assembled line holds an illegal word.
MODEL: the text details of log entry 12, among them that a space separates the two tokens of a line. -/
def Obligations.AssemblerRefusesWhatDoesNotFit : Prop :=
  (∀ (line : List Char) (ws : List CommandWord), assembleWords line = .ok ws →
    ∀ w ∈ ws, wordWellFormed w = true ∧ ∃ i, decode w = .ok i) ∧
  (∀ (width n : Nat) (cs : List Char), readNumber cs = some n →
    readOperand width cs = if n < 2 ^ width then .ok (BitVec.ofNat width n) else .error .operandTooWide) ∧
  (∀ m a : List Char, m ≠ [] → a ≠ [] → (∀ c ∈ m ++ a, c ≠ ' ' ∧ c ≠ '\t' ∧ c ≠ ',' ∧ c ≠ ';') →
    tokens (m ++ ' ' :: a) [] = [m, a]) ∧
  (∀ (line a : List Char) (n : Nat), readNumber a = some n →
    (tokens line [] = [['F', 'O', 'L', 'D', 'B'], a] → assembleLine line =
      if n < 2 ^ 8 then .ok [.foldb (BitVec.ofNat 8 n)] else .error .operandTooWide) ∧
    (tokens line [] = [['T', 'G', 'E', 'N'], a] → assembleLine line =
      if n < 2 ^ 32 then .ok [.tgen (BitVec.ofNat 32 n)] else .error .operandTooWide) ∧
    (tokens line [] = [['F', 'S', 'E', 'E', 'D'], a] → assembleLine line =
      if n < 2 ^ 32 then .ok [.fseed (BitVec.ofNat 32 n)] else .error .operandTooWide) ∧
    (tokens line [] = [['F', 'O', 'L', 'D', 'M'], a] → assembleLine line =
      if n < 2 ^ 32 then .ok [.foldm (BitVec.ofNat 32 n)] else .error .operandTooWide)) ∧
  (∀ (line a b c : List Char) (poly size seed : Nat),
    tokens line [] = [['C', 'O', 'M', 'P', 'U', 'T', 'E'], a, [','], b, [','], c] →
    readNumber a = some poly → readNumber b = some size → readNumber c = some seed →
    assembleLine line = if poly < 2 ^ 32 ∧ size < 2 ^ 32 ∧ seed < 2 ^ 32 then
      .ok [.tgen (BitVec.ofNat 32 poly), .init, .fseed (BitVec.ofNat 32 seed), .foldm (BitVec.ofNat 32 size), .fin]
      else .error .operandTooWide) ∧
  (∀ line : List Char,
    (tokens line [] = [['N', 'O', 'P']] → assembleLine line = .ok [.nop]) ∧
    (tokens line [] = [['I', 'N', 'I', 'T']] → assembleLine line = .ok [.init]) ∧
    (tokens line [] = [['F', 'I', 'N']] → assembleLine line = .ok [.fin]) ∧
    (∀ is, assembleLine line = .ok is → assembleWords line = .ok (is.map encode)) ∧
    (∀ e, assembleLine line = .error e → assembleWords line = .error e))

/-! ### One step -/

/-- A word on the command port that decodes to a command runs exactly that command, on the state in which the word has
been taken and counted (R22, R111).
MODEL: the queue (log entry 2). -/
def Obligations.StepRunsTheDecodedCommand : Prop :=
  ∀ (s : State) (w : CommandWord) (rest : List HostAction) (i : Instr),
    s.f = false → s.port = .command w :: rest → decode w = .ok i →
    step s = exec i { s with port := rest, pc := s.pc + 1 }

/-- R22, R48 (c): command words presented one after another run in that order, each to its end before the next, and each
advances `pc` by one, also while the engine is faulted.
MODEL: the queue (log entry 2). -/
def Obligations.PresentedCommandsRunInOrder : Prop :=
  ∀ (is : List Instr) (rest : List HostAction) (s : State), s.port = presented is rest →
    ∃ t, Host.Core.run Sys2Proof.core is.length s = .next t ∧
      execAll is { s with port := rest, pc := s.pc + is.length } = .next t

/-- Every step ends in a next state. For a command word: it terminates (R110), and a fault is a state of the engine (R131,
R133); for the host's other actions: R32, R41, R150; for an idle step: R144.
MODEL: the queue (log entry 2); that no step ends in an outcome fault or a refusal is DEDUCED (log entry 16). -/
def Obligations.StepAlwaysAnswersNext : Prop :=
  ∀ s : State, ∃ t, step s = .next t

/-- R144: with nothing presented the engine holds its state for any number of steps.
MODEL: the queue (log entry 2). -/
def Obligations.NothingPresentedHoldsTheState : Prop :=
  ∀ (n : Nat) (s : State), s.port = [] → Host.Core.run Sys2Proof.core n s = .next s

/-- R41: attaching a buffer between two commands changes the buffer and nothing else.
MODEL: the queue (log entry 2). -/
def Obligations.AttachChangesTheBufferOnly : Prop :=
  ∀ (s : State) (bytes : List Byte) (rest : List HostAction), s.port = .attach bytes :: rest →
    step s = .next { s with port := rest, buf := bytes }

/-! ### Faults and the faulted state -/

/-- R133: while `F = 1` every word is discarded undecoded and changes no state; the read port keeps working; and the
faulted state delivers nothing.
MODEL: the queue (log entry 2); the clause on `exec`, a decoded command executed while `F = 1`, is the model's, DEDUCED (log
entry 10): by R133 such a word is never decoded. -/
def Obligations.FaultedEngineDiscardsCommands : Prop :=
  ∀ s : State, s.f = true →
    (∀ w rest, s.port = .command w :: rest → step s = .next { s with port := rest, pc := s.pc + 1 }) ∧
    (∀ i, exec i s = .next s) ∧
    (∀ n rest, s.port = .regRead n :: rest → ∃ t, step s = .next t ∧ SameEngine s t ∧
      (∀ v, specifiedRead n s = some v → t.readData = some v)) ∧
    (statusWord s).getLsbD 3 = true ∧ ¬ s.delivered

/-- R30, R134: once `F = 1` nothing but reset changes any engine state, `CAUSE` included; reset clears the fault, and with
it the table and the checksum in progress.
MODEL: the queue (log entry 2). -/
def Obligations.OnlyResetLeavesTheFaultedState : Prop :=
  ∀ s t : State, s.f = true → step s = .next t →
    ((∀ rest, s.port ≠ .reset :: rest) → SameEngine s t) ∧
    (∀ rest, s.port = .reset :: rest → t.f = false ∧ t.cause = .none ∧ t.tv = false ∧ t.phase = .idle)

/-- R131: a faulting command has no effect other than on `F` and `CAUSE`, and `STATUS` shows the fault. -/
def Obligations.FaultEntryIsPrecise : Prop :=
  ∀ (w : CommandWord) (s t : State), s.f = false → presentWord w s = .next t → t.f = true →
    ∃ c, c ≠ .none ∧ t = { s with f := true, cause := c } ∧
      (statusWord t).getLsbD 3 = true ∧ (statusWord t).extractLsb' 4 4 = causeCode c

/-- R125: the four causes, which commands raise each and on which condition, and their codes. -/
def Obligations.CausesAndTheirConditions : Prop :=
  (∀ (w : CommandWord) (s t : State), s.f = false → presentWord w s = .next t → t.f = true →
    (t.cause = .invalidLength ∧ ∃ size, decode w = .ok (.foldm size) ∧ s.buf.length < size.toNat) ∨
    (t.cause = .illegalCommand ∧ ∃ e, decode w = .error e) ∨
    (t.cause = .sequenceError ∧ ∃ i, decode w = .ok i ∧ legalIn i s.phase = false ∧
      i.mnemonic ∈ ["FSEED", "FOLDB", "FOLDM", "FIN"]) ∨
    (t.cause = .tableNotValid ∧ s.tv = false ∧ ∃ i, decode w = .ok i ∧ i.mnemonic ∈ ["FSEED", "FOLDB", "FOLDM"])) ∧
  causeCode .none = 0 ∧ causeCode .invalidLength = 1 ∧ causeCode .illegalCommand = 2 ∧
  causeCode .sequenceError = 3 ∧ causeCode .tableNotValid = 4 ∧ (∀ c, (causeCode c).toNat < 5)

/-- R130: one command raises at most one fault, the first in the order IllegalCommand, SequenceError, TableNotValid,
InvalidLength; with none of the four conditions it raises none. -/
def Obligations.FaultPriority : Prop :=
  ∀ (w : CommandWord) (s : State), s.f = false →
    ((∃ e, decode w = .error e) → presentWord w s = .next { s with f := true, cause := .illegalCommand }) ∧
    (∀ i, decode w = .ok i → legalIn i s.phase = false →
      presentWord w s = .next { s with f := true, cause := .sequenceError }) ∧
    (∀ i, decode w = .ok i → legalIn i s.phase = true → (needsTable i = true ∧ s.tv = false) →
      presentWord w s = .next { s with f := true, cause := .tableNotValid }) ∧
    (∀ i, decode w = .ok i → legalIn i s.phase = true → (needsTable i = true → s.tv = true) → lengthOk i s = false →
      presentWord w s = .next { s with f := true, cause := .invalidLength }) ∧
    (∀ i, decode w = .ok i → legalIn i s.phase = true → (needsTable i = true → s.tv = true) → lengthOk i s = true →
      ∃ t, presentWord w s = .next t ∧ t.f = false ∧ t.cause = s.cause)

/-- R112 for every command and phase: SequenceError where the table says so and the command is then without effect; where
it says ok, with the table valid if needed and the length in range, the command completes in the phase of the last column. -/
def Obligations.PhaseTable : Prop :=
  ∀ (i : Instr) (s : State), s.f = false →
    (legalIn i s.phase = false → exec i s = .next { s with f := true, cause := .sequenceError }) ∧
    (legalIn i s.phase = true → needsTable i = true → s.tv = false →
      exec i s = .next { s with f := true, cause := .tableNotValid }) ∧
    (legalIn i s.phase = true → (needsTable i = true → s.tv = true) → lengthOk i s = true →
      ∃ t, exec i s = .next t ∧ t.f = false ∧ t.cause = s.cause ∧ t.phase = phaseAfter i s.phase)

/-- R126: FOLDM with `size` greater than `BLEN` raises InvalidLength and changes nothing else; equality does not fault. -/
def Obligations.FoldmBeyondTheBuffer : Prop :=
  ∀ (s : State) (size : Word), s.f = false → (s.phase = .inited ∨ s.phase = .folding) → s.tv = true →
    (s.buf.length < size.toNat → exec (.foldm size) s = .next { s with f := true, cause := .invalidLength }) ∧
    (size.toNat ≤ s.buf.length → ∃ t, exec (.foldm size) s = .next t ∧ t.f = false)

/-- R128: a fold command with `TV = 0` raises TableNotValid (code 4) in every phase where it is legal, also `FSEED 0` and
`FOLDM 0`. -/
def Obligations.FoldsNeedTheTable : Prop :=
  causeCode .tableNotValid = 4 ∧ ∀ s : State, s.f = false → s.tv = false →
    (s.phase = .inited → ∀ seed, exec (.fseed seed) s = .next { s with f := true, cause := .tableNotValid }) ∧
    (s.phase = .inited ∨ s.phase = .folding →
      (∀ byte, exec (.foldb byte) s = .next { s with f := true, cause := .tableNotValid }) ∧
      (∀ size, exec (.foldm size) s = .next { s with f := true, cause := .tableNotValid }))

/-! ### What each command does -/

/-- R114: NOP changes nothing in any state; its word is 0, and a word with opcode 0 and another operand raises
IllegalCommand. -/
def Obligations.NopChangesNothing : Prop :=
  encode .nop = 0x0000000000 ∧ (∀ s : State, exec .nop s = .next s) ∧
  (∀ (s : State) (imm : Word), s.f = false → imm ≠ 0 →
    presentWord (formatC 0x00 imm) s = .next { s with f := true, cause := .illegalCommand })

/-- R83: TGEN builds all 256 entries, records the polynomial, sets `TV` and goes to IDLE from every phase; the accumulator,
the result, `F`, `CAUSE`, the buffer and the host's side keep their values. -/
def Obligations.TgenBuildsTheTable : Prop :=
  ∀ (s : State) (poly : Word), s.f = false →
    ∃ t, exec (.tgen poly) s = .next t ∧ (∀ i : Byte, lookup t.table i = entry poly i) ∧
      t = { s with table := t.table, poly := poly, tv := true, phase := .idle }

/-- R82: two tables built from the same polynomial in any two states are equal. -/
def Obligations.TablesOfOnePolynomialAreEqual : Prop :=
  ∀ (s s' : State) (poly : Word), s.f = false → s'.f = false →
    ∃ t t', exec (.tgen poly) s = .next t ∧ exec (.tgen poly) s' = .next t' ∧ t.table = t'.table ∧
      ∀ i : Byte, lookup t.table i = entry poly i

/-- R93: INIT sets the accumulator to all ones and goes to INITED from every phase, with or without a table. -/
def Obligations.InitSetsTheAccumulator : Prop :=
  ∀ s : State, s.f = false → exec .init s = .next { s with acc := 0xFFFFFFFF, phase := .inited }

/-- R94, R46: a non-zero seed is folded as its four bytes, least significant first, zero bytes included; seed 0 is not
folded; the phase becomes FOLDING either way and nothing else changes. -/
def Obligations.FseedFoldsTheSeed : Prop :=
  ∀ (s : State) (seed : Word), s.f = false → s.phase = .inited → s.tv = true →
    (seed ≠ 0 → exec (.fseed seed) s = .next { s with
      acc := fold s.table (fold s.table (fold s.table (fold s.table s.acc
        (seed.extractLsb' 0 8)) (seed.extractLsb' 8 8)) (seed.extractLsb' 16 8)) (seed.extractLsb' 24 8)
      phase := .folding }) ∧
    (seed = 0 → exec (.fseed seed) s = .next { s with phase := .folding })

/-- R96: FOLDB folds its byte and goes to FOLDING; nothing else changes. -/
def Obligations.FoldbFoldsItsByte : Prop :=
  ∀ (s : State) (byte : Byte), s.f = false → (s.phase = .inited ∨ s.phase = .folding) → s.tv = true →
    exec (.foldb byte) s = .next { s with acc := fold s.table s.acc byte, phase := .folding }

/-- R97: FOLDM folds the first `size` bytes of the buffer in order and goes to FOLDING, also when `size` is 0; nothing else
changes. -/
def Obligations.FoldmFoldsThePrefix : Prop :=
  ∀ (s : State) (size : Word), s.f = false → (s.phase = .inited ∨ s.phase = .folding) → s.tv = true →
    size.toNat ≤ s.buf.length →
    exec (.foldm size) s =
      .next { s with acc := foldseq s.table s.acc (s.buf.take size.toNat), phase := .folding }

/-- R99: FIN delivers the complement of the accumulator in RESULT, keeps the accumulator and goes to DONE, with or without
a table; nothing else changes. -/
def Obligations.FinDeliversTheComplement : Prop :=
  ∀ s : State, s.f = false → (s.phase = .inited ∨ s.phase = .folding) →
    exec .fin s = .next { s with result := s.acc ^^^ 0xFFFFFFFF, phase := .done } ∧ s.acc ^^^ 0xFFFFFFFF = ~~~s.acc

/-- R98, which the spec marks as derived: FOLDM is the FOLDB commands of its bytes; FOLDM 0 only sets the phase; and two
FOLDM on two buffers are one on the concatenation of the two prefixes. -/
def Obligations.FoldmIsItsFoldbs : Prop :=
  (∀ (s : State) (size : Word), s.f = false → (s.phase = .inited ∨ s.phase = .folding) → s.tv = true →
    size.toNat ≤ s.buf.length → size ≠ 0 →
    ∃ t, exec (.foldm size) s = .next t ∧ execAll ((s.buf.take size.toNat).map Instr.foldb) s = .next t) ∧
  (∀ s : State, s.f = false → (s.phase = .inited ∨ s.phase = .folding) → s.tv = true →
    exec (.foldm 0) s = .next { s with phase := .folding }) ∧
  (∀ (s : State) (x y : List Byte) (m n : Word), s.f = false → (s.phase = .inited ∨ s.phase = .folding) →
    s.tv = true → m.toNat ≤ x.length → n.toNat ≤ y.length → m.toNat + n.toNat < 2 ^ 32 →
    ∃ s₁ s₂ s₃, exec (.foldm m) { s with buf := x } = .next s₁ ∧ exec (.foldm n) { s₁ with buf := y } = .next s₂ ∧
      exec (.foldm (m + n)) { s with buf := x.take m.toNat ++ y.take n.toNat } = .next s₃ ∧
      s₂.acc = s₃.acc ∧ s₂.phase = s₃.phase)

/-! ### What a command leaves unchanged, and what it reads -/

/-- R20 (column "Written by"), R44, R131: no command changes the buffer or the host's side; only TGEN writes TABLE, POLY and
TV; only INIT and the fold commands write ACC; only FIN writes RESULT; `F` and `CAUSE` are written by faults only, no command
clears `F` (R134), and a command that faults, and NOP, leave the phase.
MODEL: the clause on a state that is already faulted, which `exec` leaves as it is (log entry 10). -/
def Obligations.CommandFrame : Prop :=
  ∀ (i : Instr) (s t : State), exec i s = .next t →
    (t.buf.length = s.buf.length ∧ ∀ (a : Nat) (h : a < s.buf.length) (h' : a < t.buf.length),
      memRead t.buf a h' = memRead s.buf a h) ∧
    (t.port = s.port ∧ t.pc = s.pc ∧ t.readData = s.readData ∧ t.draws = s.draws) ∧
    ((∀ p, i ≠ .tgen p) → t.table = s.table ∧ t.poly = s.poly ∧ t.tv = s.tv) ∧
    ((i = .nop ∨ (∃ p, i = .tgen p) ∨ i = .fin) → t.acc = s.acc) ∧
    (i ≠ .fin → t.result = s.result) ∧
    (t.f = false → t.cause = s.cause) ∧
    (t.f = true → t.phase = s.phase ∧ t.acc = s.acc ∧ t.result = s.result ∧ t.table = s.table ∧ t.poly = s.poly ∧
      t.tv = s.tv) ∧
    (s.f = true → t = s) ∧
    (i = .nop → t = s)

/-- R20 (column "Read by"), R25: no command reads POLY or RESULT. With other values there, everything a command writes is
the same, the RESULT that FIN delivers and the POLY that TGEN records included, and a command that does not write one of
them leaves the value it found.
MODEL: where `F = 1`, `exec` writes nothing (log entry 10). -/
def Obligations.NoCommandReadsPolyOrResult : Prop :=
  ∀ (i : Instr) (s t : State) (p r : Word), exec i s = .next t →
    ∃ t', exec i { s with poly := p, result := r } = .next t' ∧ t'.table = t.table ∧ t'.acc = t.acc ∧ t'.tv = t.tv ∧
      t'.phase = t.phase ∧ t'.f = t.f ∧ t'.cause = t.cause ∧
      (if i = .fin ∧ s.f = false ∧ (s.phase = .inited ∨ s.phase = .folding) then t'.result = t.result
        else t'.result = r) ∧
      (∀ q, i = .tgen q → s.f = false → t'.poly = t.poly) ∧
      (((∀ q, i ≠ .tgen q) ∨ s.f = true) → t'.poly = p)

/-- R97: FOLDM depends on the first `size` bytes of the buffer only. -/
def Obligations.FoldmReadsThePrefixOnly : Prop :=
  ∀ (s : State) (size : Word) (other : List Byte), size.toNat ≤ s.buf.length → size.toNat ≤ other.length →
    s.buf.take size.toNat = other.take size.toNat →
    ∃ t, exec (.foldm size) s = .next t ∧ exec (.foldm size) { s with buf := other } = .next { t with buf := other }

/-- R33: what the spec leaves unspecified never reaches anything it specifies. Two states that agree on the specified
registers still do after the same action of the host, and a specified read returns the same value in both.
MODEL: the queue (log entry 2), the free values (log entries 3, 4). -/
def Obligations.UnspecifiedValuesNeverLeak : Prop :=
  ∀ s t s' t' : State, Agree s t → s.port = t.port → step s = .next s' → step t = .next t' →
    Agree s' t' ∧
    (∀ n rest v, s.port = .regRead n :: rest → specifiedRead n s = some v →
      s'.readData = some v ∧ t'.readData = some v)

/-! ### Reset and the read port -/

/-- The state after reset: the flags of R34, and STATUS 0. That no other read-port number is specified then is R35, which the
spec marks as derived from R32 and R34. -/
def Obligations.ResetStateShowsStatusOnly : Prop :=
  State.reset.tv = false ∧ State.reset.phase = .idle ∧ State.reset.f = false ∧ State.reset.cause = .none ∧
    ∀ n : RegNum, specifiedRead n State.reset = if n = 0 then some 0 else none

/-- R150: the reset input puts the engine in the reset state from every state, the faulted one included, and is not counted
by `pc`; no data register is specified afterwards. That the buffer, the queue and the last read stay is the model's (log
entries 2, 7, 8).
MODEL: the queue (log entry 2). -/
def Obligations.ResetFromEveryState : Prop :=
  ∀ (s : State) (rest : List HostAction), s.port = .reset :: rest →
    ∃ t, step s = .next t ∧ t.tv = false ∧ t.phase = .idle ∧ t.f = false ∧ t.cause = .none ∧ statusWord t = 0 ∧
      (∀ n : RegNum, specifiedRead n t = if n = 0 then some 0 else none) ∧
      t.buf = s.buf ∧ t.port = rest ∧ t.pc = s.pc ∧ t.readData = s.readData

/-- R32: the read port's table. A read has no effect on the engine, the buffer or `pc`, works in every state, and where the
table specifies a value returns it; every read returns some value.
MODEL: the queue (log entry 2), the latch `readData` (log entry 8). -/
def Obligations.ReadPortTable : Prop :=
  ∀ (s : State) (n : RegNum) (rest : List HostAction), s.port = .regRead n :: rest →
    ∃ t v, step s = .next t ∧ t = { s with port := rest, readData := some v, draws := t.draws } ∧
      (n = 0x000 → v = statusWord s) ∧
      (n = 0x001 → s.phase = .done → v = s.result) ∧
      (n = 0x002 → (s.phase = .inited ∨ s.phase = .folding ∨ s.phase = .done) → v = s.acc) ∧
      (n = 0x003 → s.tv = true → v = s.poly) ∧
      (∀ i : Byte, n.toNat = 0x100 + i.toNat → s.tv = true → v = lookup s.table i)

/-- R35: a data register becomes specified only through the command that writes it.
MODEL: the queue (log entry 2). -/
def Obligations.SpecifiedOnlyByItsWriter : Prop :=
  ∀ (s t : State) (n : RegNum) (v : Word), step s = .next t → specifiedRead n s = none → specifiedRead n t = some v →
    ∃ w rest i, s.port = .command w :: rest ∧ decode w = .ok i ∧
      ((n = 0x001 ∧ i = .fin) ∨ (n = 0x002 ∧ i = .init) ∨ ((n = 0x003 ∨ 0x100 ≤ n.toNat) ∧ ∃ p, i = .tgen p))

/-- R31, R135: the layout of STATUS; bits 31:8 are always 0, codes 5 to 15 never appear, the `fault` output is `F` and
so its bit 3, STATUS is 0 after reset, and only a command or a reset changes it.
MODEL: the queue (log entry 2). -/
def Obligations.StatusLayout : Prop :=
  ∀ s : State,
    (statusWord s).extractLsb' 0 1 = BitVec.ofBool s.tv ∧
    (statusWord s).extractLsb' 1 2 = phaseCode s.phase ∧
    (statusWord s).extractLsb' 3 1 = BitVec.ofBool s.f ∧
    (statusWord s).extractLsb' 4 4 = causeCode s.cause ∧
    (statusWord s).extractLsb' 8 24 = 0 ∧
    ((statusWord s).extractLsb' 4 4).toNat ≤ 4 ∧
    (statusWord s).getLsbD 3 = faultOutput s ∧ faultOutput s = s.f ∧ statusWord State.reset = 0 ∧
    (∀ t, step s = .next t → (∀ w rest, s.port ≠ .command w :: rest) → (∀ rest, s.port ≠ .reset :: rest) →
      statusWord t = statusWord s)

/-! ### Invariants and the whole machine -/

/-- The invariant `State.Inv` (R28, R30, R84) holds after reset. -/
def Obligations.InvariantAtReset : Prop := State.reset.Inv

/-- Every step, of every kind, keeps the invariant `State.Inv` (R28, R30, R84), from every state that meets it.
MODEL: the queue (log entry 2). -/
def Obligations.StepKeepsTheInvariant : Prop :=
  ∀ s t : State, s.Inv → step s = .next t → t.Inv

/-- R29: `TV` is set by TGEN only and cleared by reset only.
MODEL: the queue (log entry 2). -/
def Obligations.TableValidSetByTgenClearedByReset : Prop :=
  ∀ s t : State, step s = .next t →
    (s.tv = false → t.tv = true → ∃ w rest p, s.port = .command w :: rest ∧ decode w = .ok (.tgen p)) ∧
    (s.tv = true → t.tv = false → ∃ rest, s.port = .reset :: rest) ∧
    (∀ w rest p, s.port = .command w :: rest → s.f = false → decode w = .ok (.tgen p) → t.tv = true) ∧
    (∀ rest, s.port = .reset :: rest → t.tv = false)

/-- R157: after TGEN the checksum in progress cannot be continued: until an INIT, whatever commands follow, the phase stays
IDLE and neither the accumulator nor the result changes. -/
def Obligations.TgenAbandonsTheChecksum : Prop :=
  ∀ (s : State) (poly : Word) (is : List Instr), s.f = false → (∀ i ∈ is, i ≠ .init) →
    ∃ t, execAll (.tgen poly :: is) s = .next t ∧ t.phase = .idle ∧ t.acc = s.acc ∧ t.result = s.result

/-- R128, R153: without a TGEN no byte is folded: from `TV = 0`, commands that hold no TGEN leave the accumulator as it was
or at its initial value. -/
def Obligations.NothingFoldedWithoutTgen : Prop :=
  ∀ (s : State) (is : List Instr), s.tv = false → (∀ i ∈ is, ∀ p, i ≠ .tgen p) →
    ∃ t, execAll is s = .next t ∧ t.tv = false ∧ (t.acc = s.acc ∨ t.acc = 0xFFFFFFFF)

/-- R158: once delivered, the result stands until the next INIT or TGEN, whatever other commands are presented. -/
def Obligations.ResultStandsUntilInitOrTgen : Prop :=
  ∀ (s : State) (is : List Instr), s.phase = .done → (∀ i ∈ is, i ≠ .init ∧ ∀ p, i ≠ .tgen p) →
    ∃ t, execAll is s = .next t ∧ t.phase = .done ∧ t.result = s.result ∧ specifiedRead 0x001 t = some s.result

/-- R153: `TGEN; INIT; FIN` and `INIT; FIN` deliver 0, from every state that is not faulted. -/
def Obligations.ShortestSequencesDeliverZero : Prop :=
  ∀ (s : State) (poly : Word), s.f = false →
    (∃ t, execAll [.tgen poly, .init, .fin] s = .next t ∧ t.delivered ∧ t.result = 0) ∧
    (∃ t, execAll [.init, .fin] s = .next t ∧ t.delivered ∧ t.result = 0)

/-- R24, R29, R153: with a table in place a further checksum needs no TGEN, and it is the checksum under the polynomial the
table was built from. -/
def Obligations.TableServesFurtherChecksums : Prop :=
  ∀ (s : State) (seed size : Word), s.Inv → s.f = false → s.tv = true → size.toNat ≤ s.buf.length →
    ∃ t, execAll [.init, .fseed seed, .foldm size, .fin] s = .next t ∧ t.delivered ∧
      t.result = crc s.poly (s.buf.take size.toNat) seed ∧ t.table = s.table ∧ t.poly = s.poly ∧ t.tv = true

/-- R115: the five words of COMPUTE, presented in any state that is not faulted. With `size <= BLEN` they deliver
`crc(poly, buf[0..size), seed)`; with `size > BLEN` the run ends in InvalidLength and RESULT is not written.
MODEL: the queue (log entry 2). -/
def Obligations.ComputeDeliversTheChecksum : Prop :=
  ∀ (s : State) (poly size seed : Word) (rest : List HostAction), s.Inv → s.f = false →
    s.port = presented (computeSequence poly size seed) rest →
    ∃ t : State, Host.Core.run Sys2Proof.core 5 s = .next t ∧
      (∀ i : Byte, lookup t.table i = entry poly i) ∧ t.poly = poly ∧ t.tv = true ∧
      t.buf = s.buf ∧ t.port = rest ∧ t.pc = s.pc + 5 ∧
      (size.toNat ≤ s.buf.length → t.delivered ∧ t.cause = .none ∧ t.acc = t.result ^^^ 0xFFFFFFFF ∧
        t.result = crc poly (s.buf.take size.toNat) seed ∧ specifiedRead 0x001 t = some t.result) ∧
      (s.buf.length < size.toNat → t.f = true ∧ t.cause = .invalidLength ∧ t.phase = .folding ∧
        t.acc = seedStep (crcTable poly) seed 0xFFFFFFFF ∧ t.result = s.result ∧ specifiedRead 0x001 t = none)
end

