-- ==== Sys2Proof/Laws/Decode.lean ====
section
/-! SUPPORT. The fields of a word in format `C` (rule R61), of FOLDB's operand (R62), and what `decode` can answer. -/

namespace Sys2Proof

theorem getLsbD_formatC (op : BitVec 8) (imm : Word) (i : Nat) :
    (formatC op imm).getLsbD i = if i < 32 then imm.getLsbD i else op.getLsbD (i - 32) :=
  (BitVec.getLsbD_append (x := op) (y := imm)).trans (by split <;> simp_all)

@[simp] theorem opField_formatC (op : BitVec 8) (imm : Word) : opField (formatC op imm) = op := by
  ext i hi
  simp [opField, getLsbD_formatC, BitVec.getLsbD_eq_getElem hi]

@[simp] theorem immField_formatC (op : BitVec 8) (imm : Word) : immField (formatC op imm) = imm := by
  ext i hi
  simp [immField, getLsbD_formatC, hi]

/-- A word is its two fields: no bit lies outside `op` and `imm`. -/
theorem formatC_fields (w : CommandWord) : formatC (opField w) (immField w) = w := by
  apply BitVec.eq_of_getLsbD_eq
  intro i hi
  rw [getLsbD_formatC]
  split
  · simp [immField, *]
  · have h8 : i - 32 < 8 := by omega
    have : 32 + (i - 32) = i := by omega
    simp [opField, this, h8]

/-- Masks act field by field. -/
theorem formatC_and (op op' : BitVec 8) (imm imm' : Word) :
    formatC op imm &&& formatC op' imm' = formatC (op &&& op') (imm &&& imm') := by
  apply BitVec.eq_of_getLsbD_eq
  intro i hi
  simp only [BitVec.getLsbD_and, getLsbD_formatC]
  split <;> simp

theorem formatC_inj {op op' : BitVec 8} {imm imm' : Word} :
    formatC op imm = formatC op' imm' ↔ op = op' ∧ imm = imm' := by
  constructor
  · intro h
    have h1 := congrArg opField h
    have h2 := congrArg immField h
    simp at h1 h2
    exact ⟨h1, h2⟩
  · rintro ⟨rfl, rfl⟩; rfl

theorem getLsbD_byteImm (r : BitVec 24) (b : Byte) (i : Nat) :
    (byteImm r b).getLsbD i = if i < 8 then b.getLsbD i else r.getLsbD (i - 8) :=
  (BitVec.getLsbD_append (x := r) (y := b)).trans (by split <;> simp_all)

@[simp] theorem reserved_byteImm (r : BitVec 24) (b : Byte) : (byteImm r b).extractLsb' 8 24 = r := by
  ext i hi
  simp [getLsbD_byteImm, BitVec.getLsbD_eq_getElem hi]

@[simp] theorem byte_byteImm (r : BitVec 24) (b : Byte) : (byteImm r b).extractLsb' 0 8 = b := by
  ext i hi
  simp [getLsbD_byteImm, hi]

/-- An operand field is its reserved part and its byte. -/
theorem byteImm_fields (imm : Word) : byteImm (imm.extractLsb' 8 24) (imm.extractLsb' 0 8) = imm := by
  apply BitVec.eq_of_getLsbD_eq
  intro i hi
  rw [getLsbD_byteImm]
  split
  · simp [*]
  · have h24 : i - 8 < 24 := by omega
    have : 8 + (i - 8) = i := by omega
    simp [this, h24]

theorem byteImm_and (r r' : BitVec 24) (b b' : Byte) : byteImm r b &&& byteImm r' b' = byteImm (r &&& r') (b &&& b') := by
  apply BitVec.eq_of_getLsbD_eq
  intro i hi
  simp only [BitVec.getLsbD_and, getLsbD_byteImm]
  split <;> simp

theorem byteImm_inj {r r' : BitVec 24} {b b' : Byte} : byteImm r b = byteImm r' b' ↔ r = r' ∧ b = b' := by
  constructor
  · intro h
    have h1 := congrArg (fun v => BitVec.extractLsb' 8 24 v) h
    have h2 := congrArg (fun v => BitVec.extractLsb' 0 8 v) h
    simp only [reserved_byteImm, byte_byteImm] at h1 h2
    exact ⟨h1, h2⟩
  · rintro ⟨rfl, rfl⟩; rfl

theorem opcode_values (op : BitVec 8) (h : op.toNat < 7) :
    op = 0 ∨ op = 1 ∨ op = 2 ∨ op = 3 ∨ op = 4 ∨ op = 5 ∨ op = 6 := by
  revert op; decide

/-- Everything the decoder can answer, by the opcode field. -/
theorem decode_cases (w : CommandWord) :
    (opField w = 0x00 ∧ decode w = withoutOperand .nop (immField w)) ∨
    (opField w = 0x01 ∧ decode w = .ok (.tgen (immField w))) ∨
    (opField w = 0x02 ∧ decode w = withoutOperand .init (immField w)) ∨
    (opField w = 0x03 ∧ decode w = .ok (.fseed (immField w))) ∨
    (opField w = 0x04 ∧ decode w = withByteOperand .foldb (immField w)) ∨
    (opField w = 0x05 ∧ decode w = .ok (.foldm (immField w))) ∨
    (opField w = 0x06 ∧ decode w = withoutOperand .fin (immField w)) ∨
    (7 ≤ (opField w).toNat ∧ decode w = .error .unassignedOpcode) := by
  by_cases h : (opField w).toNat < 7
  · rcases opcode_values _ h with h | h | h | h | h | h | h <;> simp [decode, h]
  · refine .inr (.inr (.inr (.inr (.inr (.inr (.inr ⟨by omega, ?_⟩))))))
    unfold decode
    generalize opField w = op at h
    repeat' split
    all_goals simp_all

end Sys2Proof
end

