-- ==== Sys2Proof/Laws/State.lean ====
section
/-! SUPPORT. One lemma per field per named update of the state, true by definition: what the update writes, and that it
writes nothing else. -/

namespace Sys2Proof.Machine

/-! ### writeTable -/

@[simp] theorem State.writeTable_table (p : Word) (T : Table) (s : State) : (s.writeTable p T).table = T := rfl
@[simp] theorem State.writeTable_poly (p : Word) (T : Table) (s : State) : (s.writeTable p T).poly = p := rfl
@[simp] theorem State.writeTable_acc (p : Word) (T : Table) (s : State) : (s.writeTable p T).acc = s.acc := rfl
@[simp] theorem State.writeTable_result (p : Word) (T : Table) (s : State) : (s.writeTable p T).result = s.result := rfl
@[simp] theorem State.writeTable_tv (p : Word) (T : Table) (s : State) : (s.writeTable p T).tv = true := rfl
@[simp] theorem State.writeTable_phase (p : Word) (T : Table) (s : State) : (s.writeTable p T).phase = s.phase := rfl
@[simp] theorem State.writeTable_f (p : Word) (T : Table) (s : State) : (s.writeTable p T).f = s.f := rfl
@[simp] theorem State.writeTable_cause (p : Word) (T : Table) (s : State) : (s.writeTable p T).cause = s.cause := rfl
@[simp] theorem State.writeTable_buf (p : Word) (T : Table) (s : State) : (s.writeTable p T).buf = s.buf := rfl
@[simp] theorem State.writeTable_port (p : Word) (T : Table) (s : State) : (s.writeTable p T).port = s.port := rfl
@[simp] theorem State.writeTable_pc (p : Word) (T : Table) (s : State) : (s.writeTable p T).pc = s.pc := rfl
@[simp] theorem State.writeTable_readData (p : Word) (T : Table) (s : State) : (s.writeTable p T).readData = s.readData := rfl
@[simp] theorem State.writeTable_draws (p : Word) (T : Table) (s : State) : (s.writeTable p T).draws = s.draws := rfl

/-! ### writeAcc -/

@[simp] theorem State.writeAcc_table (a : Word) (s : State) : (s.writeAcc a).table = s.table := rfl
@[simp] theorem State.writeAcc_poly (a : Word) (s : State) : (s.writeAcc a).poly = s.poly := rfl
@[simp] theorem State.writeAcc_acc (a : Word) (s : State) : (s.writeAcc a).acc = a := rfl
@[simp] theorem State.writeAcc_result (a : Word) (s : State) : (s.writeAcc a).result = s.result := rfl
@[simp] theorem State.writeAcc_tv (a : Word) (s : State) : (s.writeAcc a).tv = s.tv := rfl
@[simp] theorem State.writeAcc_phase (a : Word) (s : State) : (s.writeAcc a).phase = s.phase := rfl
@[simp] theorem State.writeAcc_f (a : Word) (s : State) : (s.writeAcc a).f = s.f := rfl
@[simp] theorem State.writeAcc_cause (a : Word) (s : State) : (s.writeAcc a).cause = s.cause := rfl
@[simp] theorem State.writeAcc_buf (a : Word) (s : State) : (s.writeAcc a).buf = s.buf := rfl
@[simp] theorem State.writeAcc_port (a : Word) (s : State) : (s.writeAcc a).port = s.port := rfl
@[simp] theorem State.writeAcc_pc (a : Word) (s : State) : (s.writeAcc a).pc = s.pc := rfl
@[simp] theorem State.writeAcc_readData (a : Word) (s : State) : (s.writeAcc a).readData = s.readData := rfl
@[simp] theorem State.writeAcc_draws (a : Word) (s : State) : (s.writeAcc a).draws = s.draws := rfl

/-! ### writeResult -/

@[simp] theorem State.writeResult_table (r : Word) (s : State) : (s.writeResult r).table = s.table := rfl
@[simp] theorem State.writeResult_poly (r : Word) (s : State) : (s.writeResult r).poly = s.poly := rfl
@[simp] theorem State.writeResult_acc (r : Word) (s : State) : (s.writeResult r).acc = s.acc := rfl
@[simp] theorem State.writeResult_result (r : Word) (s : State) : (s.writeResult r).result = r := rfl
@[simp] theorem State.writeResult_tv (r : Word) (s : State) : (s.writeResult r).tv = s.tv := rfl
@[simp] theorem State.writeResult_phase (r : Word) (s : State) : (s.writeResult r).phase = s.phase := rfl
@[simp] theorem State.writeResult_f (r : Word) (s : State) : (s.writeResult r).f = s.f := rfl
@[simp] theorem State.writeResult_cause (r : Word) (s : State) : (s.writeResult r).cause = s.cause := rfl
@[simp] theorem State.writeResult_buf (r : Word) (s : State) : (s.writeResult r).buf = s.buf := rfl
@[simp] theorem State.writeResult_port (r : Word) (s : State) : (s.writeResult r).port = s.port := rfl
@[simp] theorem State.writeResult_pc (r : Word) (s : State) : (s.writeResult r).pc = s.pc := rfl
@[simp] theorem State.writeResult_readData (r : Word) (s : State) : (s.writeResult r).readData = s.readData := rfl
@[simp] theorem State.writeResult_draws (r : Word) (s : State) : (s.writeResult r).draws = s.draws := rfl

/-! ### enter -/

@[simp] theorem State.enter_table (p : Phase) (s : State) : (s.enter p).table = s.table := rfl
@[simp] theorem State.enter_poly (p : Phase) (s : State) : (s.enter p).poly = s.poly := rfl
@[simp] theorem State.enter_acc (p : Phase) (s : State) : (s.enter p).acc = s.acc := rfl
@[simp] theorem State.enter_result (p : Phase) (s : State) : (s.enter p).result = s.result := rfl
@[simp] theorem State.enter_tv (p : Phase) (s : State) : (s.enter p).tv = s.tv := rfl
@[simp] theorem State.enter_phase (p : Phase) (s : State) : (s.enter p).phase = p := rfl
@[simp] theorem State.enter_f (p : Phase) (s : State) : (s.enter p).f = s.f := rfl
@[simp] theorem State.enter_cause (p : Phase) (s : State) : (s.enter p).cause = s.cause := rfl
@[simp] theorem State.enter_buf (p : Phase) (s : State) : (s.enter p).buf = s.buf := rfl
@[simp] theorem State.enter_port (p : Phase) (s : State) : (s.enter p).port = s.port := rfl
@[simp] theorem State.enter_pc (p : Phase) (s : State) : (s.enter p).pc = s.pc := rfl
@[simp] theorem State.enter_readData (p : Phase) (s : State) : (s.enter p).readData = s.readData := rfl
@[simp] theorem State.enter_draws (p : Phase) (s : State) : (s.enter p).draws = s.draws := rfl

/-! ### raise -/

@[simp] theorem State.raise_table (c : Cause) (s : State) : (s.raise c).table = s.table := rfl
@[simp] theorem State.raise_poly (c : Cause) (s : State) : (s.raise c).poly = s.poly := rfl
@[simp] theorem State.raise_acc (c : Cause) (s : State) : (s.raise c).acc = s.acc := rfl
@[simp] theorem State.raise_result (c : Cause) (s : State) : (s.raise c).result = s.result := rfl
@[simp] theorem State.raise_tv (c : Cause) (s : State) : (s.raise c).tv = s.tv := rfl
@[simp] theorem State.raise_phase (c : Cause) (s : State) : (s.raise c).phase = s.phase := rfl
@[simp] theorem State.raise_f (c : Cause) (s : State) : (s.raise c).f = true := rfl
@[simp] theorem State.raise_cause (c : Cause) (s : State) : (s.raise c).cause = c := rfl
@[simp] theorem State.raise_buf (c : Cause) (s : State) : (s.raise c).buf = s.buf := rfl
@[simp] theorem State.raise_port (c : Cause) (s : State) : (s.raise c).port = s.port := rfl
@[simp] theorem State.raise_pc (c : Cause) (s : State) : (s.raise c).pc = s.pc := rfl
@[simp] theorem State.raise_readData (c : Cause) (s : State) : (s.raise c).readData = s.readData := rfl
@[simp] theorem State.raise_draws (c : Cause) (s : State) : (s.raise c).draws = s.draws := rfl

/-! ### attachBuffer -/

@[simp] theorem State.attachBuffer_table (bytes : List Byte) (s : State) : (s.attachBuffer bytes).table = s.table := rfl
@[simp] theorem State.attachBuffer_poly (bytes : List Byte) (s : State) : (s.attachBuffer bytes).poly = s.poly := rfl
@[simp] theorem State.attachBuffer_acc (bytes : List Byte) (s : State) : (s.attachBuffer bytes).acc = s.acc := rfl
@[simp] theorem State.attachBuffer_result (bytes : List Byte) (s : State) : (s.attachBuffer bytes).result = s.result := rfl
@[simp] theorem State.attachBuffer_tv (bytes : List Byte) (s : State) : (s.attachBuffer bytes).tv = s.tv := rfl
@[simp] theorem State.attachBuffer_phase (bytes : List Byte) (s : State) : (s.attachBuffer bytes).phase = s.phase := rfl
@[simp] theorem State.attachBuffer_f (bytes : List Byte) (s : State) : (s.attachBuffer bytes).f = s.f := rfl
@[simp] theorem State.attachBuffer_cause (bytes : List Byte) (s : State) : (s.attachBuffer bytes).cause = s.cause := rfl
@[simp] theorem State.attachBuffer_buf (bytes : List Byte) (s : State) : (s.attachBuffer bytes).buf = bytes := rfl
@[simp] theorem State.attachBuffer_port (bytes : List Byte) (s : State) : (s.attachBuffer bytes).port = s.port := rfl
@[simp] theorem State.attachBuffer_pc (bytes : List Byte) (s : State) : (s.attachBuffer bytes).pc = s.pc := rfl
@[simp] theorem State.attachBuffer_readData (bytes : List Byte) (s : State) : (s.attachBuffer bytes).readData = s.readData := rfl
@[simp] theorem State.attachBuffer_draws (bytes : List Byte) (s : State) : (s.attachBuffer bytes).draws = s.draws := rfl

/-! ### countCommand -/

@[simp] theorem State.countCommand_table (s : State) : s.countCommand.table = s.table := rfl
@[simp] theorem State.countCommand_poly (s : State) : s.countCommand.poly = s.poly := rfl
@[simp] theorem State.countCommand_acc (s : State) : s.countCommand.acc = s.acc := rfl
@[simp] theorem State.countCommand_result (s : State) : s.countCommand.result = s.result := rfl
@[simp] theorem State.countCommand_tv (s : State) : s.countCommand.tv = s.tv := rfl
@[simp] theorem State.countCommand_phase (s : State) : s.countCommand.phase = s.phase := rfl
@[simp] theorem State.countCommand_f (s : State) : s.countCommand.f = s.f := rfl
@[simp] theorem State.countCommand_cause (s : State) : s.countCommand.cause = s.cause := rfl
@[simp] theorem State.countCommand_buf (s : State) : s.countCommand.buf = s.buf := rfl
@[simp] theorem State.countCommand_port (s : State) : s.countCommand.port = s.port := rfl
@[simp] theorem State.countCommand_pc (s : State) : s.countCommand.pc = s.pc + 1 := rfl
@[simp] theorem State.countCommand_readData (s : State) : s.countCommand.readData = s.readData := rfl
@[simp] theorem State.countCommand_draws (s : State) : s.countCommand.draws = s.draws := rfl

/-! ### setPort -/

@[simp] theorem State.setPort_table (rest : List HostAction) (s : State) : (s.setPort rest).table = s.table := rfl
@[simp] theorem State.setPort_poly (rest : List HostAction) (s : State) : (s.setPort rest).poly = s.poly := rfl
@[simp] theorem State.setPort_acc (rest : List HostAction) (s : State) : (s.setPort rest).acc = s.acc := rfl
@[simp] theorem State.setPort_result (rest : List HostAction) (s : State) : (s.setPort rest).result = s.result := rfl
@[simp] theorem State.setPort_tv (rest : List HostAction) (s : State) : (s.setPort rest).tv = s.tv := rfl
@[simp] theorem State.setPort_phase (rest : List HostAction) (s : State) : (s.setPort rest).phase = s.phase := rfl
@[simp] theorem State.setPort_f (rest : List HostAction) (s : State) : (s.setPort rest).f = s.f := rfl
@[simp] theorem State.setPort_cause (rest : List HostAction) (s : State) : (s.setPort rest).cause = s.cause := rfl
@[simp] theorem State.setPort_buf (rest : List HostAction) (s : State) : (s.setPort rest).buf = s.buf := rfl
@[simp] theorem State.setPort_port (rest : List HostAction) (s : State) : (s.setPort rest).port = rest := rfl
@[simp] theorem State.setPort_pc (rest : List HostAction) (s : State) : (s.setPort rest).pc = s.pc := rfl
@[simp] theorem State.setPort_readData (rest : List HostAction) (s : State) : (s.setPort rest).readData = s.readData := rfl
@[simp] theorem State.setPort_draws (rest : List HostAction) (s : State) : (s.setPort rest).draws = s.draws := rfl

/-! ### returnSpecified -/

@[simp] theorem State.returnSpecified_table (v : Word) (s : State) : (s.returnSpecified v).table = s.table := rfl
@[simp] theorem State.returnSpecified_poly (v : Word) (s : State) : (s.returnSpecified v).poly = s.poly := rfl
@[simp] theorem State.returnSpecified_acc (v : Word) (s : State) : (s.returnSpecified v).acc = s.acc := rfl
@[simp] theorem State.returnSpecified_result (v : Word) (s : State) : (s.returnSpecified v).result = s.result := rfl
@[simp] theorem State.returnSpecified_tv (v : Word) (s : State) : (s.returnSpecified v).tv = s.tv := rfl
@[simp] theorem State.returnSpecified_phase (v : Word) (s : State) : (s.returnSpecified v).phase = s.phase := rfl
@[simp] theorem State.returnSpecified_f (v : Word) (s : State) : (s.returnSpecified v).f = s.f := rfl
@[simp] theorem State.returnSpecified_cause (v : Word) (s : State) : (s.returnSpecified v).cause = s.cause := rfl
@[simp] theorem State.returnSpecified_buf (v : Word) (s : State) : (s.returnSpecified v).buf = s.buf := rfl
@[simp] theorem State.returnSpecified_port (v : Word) (s : State) : (s.returnSpecified v).port = s.port := rfl
@[simp] theorem State.returnSpecified_pc (v : Word) (s : State) : (s.returnSpecified v).pc = s.pc := rfl
@[simp] theorem State.returnSpecified_readData (v : Word) (s : State) : (s.returnSpecified v).readData = some v := rfl
@[simp] theorem State.returnSpecified_draws (v : Word) (s : State) : (s.returnSpecified v).draws = s.draws := rfl

/-! ### returnUnspecified -/

@[simp] theorem State.returnUnspecified_table (s : State) : s.returnUnspecified.table = s.table := rfl
@[simp] theorem State.returnUnspecified_poly (s : State) : s.returnUnspecified.poly = s.poly := rfl
@[simp] theorem State.returnUnspecified_acc (s : State) : s.returnUnspecified.acc = s.acc := rfl
@[simp] theorem State.returnUnspecified_result (s : State) : s.returnUnspecified.result = s.result := rfl
@[simp] theorem State.returnUnspecified_tv (s : State) : s.returnUnspecified.tv = s.tv := rfl
@[simp] theorem State.returnUnspecified_phase (s : State) : s.returnUnspecified.phase = s.phase := rfl
@[simp] theorem State.returnUnspecified_f (s : State) : s.returnUnspecified.f = s.f := rfl
@[simp] theorem State.returnUnspecified_cause (s : State) : s.returnUnspecified.cause = s.cause := rfl
@[simp] theorem State.returnUnspecified_buf (s : State) : s.returnUnspecified.buf = s.buf := rfl
@[simp] theorem State.returnUnspecified_port (s : State) : s.returnUnspecified.port = s.port := rfl
@[simp] theorem State.returnUnspecified_pc (s : State) : s.returnUnspecified.pc = s.pc := rfl
@[simp] theorem State.returnUnspecified_readData (s : State) : s.returnUnspecified.readData = some (Config.freeWord s.draws) := rfl
@[simp] theorem State.returnUnspecified_draws (s : State) : s.returnUnspecified.draws = s.draws + 1 := rfl

/-! ### resetEngine -/

@[simp] theorem State.resetEngine_table (s : State) : s.resetEngine.table = tabulate fun i => Config.freeWord (s.draws + i.toNat) := rfl
@[simp] theorem State.resetEngine_poly (s : State) : s.resetEngine.poly = Config.freeWord (s.draws + 256) := rfl
@[simp] theorem State.resetEngine_acc (s : State) : s.resetEngine.acc = Config.freeWord (s.draws + 257) := rfl
@[simp] theorem State.resetEngine_result (s : State) : s.resetEngine.result = Config.freeWord (s.draws + 258) := rfl
@[simp] theorem State.resetEngine_tv (s : State) : s.resetEngine.tv = false := rfl
@[simp] theorem State.resetEngine_phase (s : State) : s.resetEngine.phase = .idle := rfl
@[simp] theorem State.resetEngine_f (s : State) : s.resetEngine.f = false := rfl
@[simp] theorem State.resetEngine_cause (s : State) : s.resetEngine.cause = .none := rfl
@[simp] theorem State.resetEngine_buf (s : State) : s.resetEngine.buf = s.buf := rfl
@[simp] theorem State.resetEngine_port (s : State) : s.resetEngine.port = s.port := rfl
@[simp] theorem State.resetEngine_pc (s : State) : s.resetEngine.pc = s.pc := rfl
@[simp] theorem State.resetEngine_readData (s : State) : s.resetEngine.readData = s.readData := rfl
@[simp] theorem State.resetEngine_draws (s : State) : s.resetEngine.draws = s.draws + 259 := rfl

end Sys2Proof.Machine
end

