-- ==== Sys2Proof/Laws/Ops.lean ====
section
/-! SUPPORT. What the shared operations do, once each: tables and lookups, the buffer's cell view, and the order of checks
`command` (rule R111). -/

namespace Sys2Proof.Machine

/-! ### Tables -/

theorem getElem_tabulateFrom (f : Byte → Word) (n i k : Nat) (h : k < (tabulateFrom f n i).length) :
    (tabulateFrom f n i)[k] = f (BitVec.ofNat 8 (i + k)) := by
  induction n generalizing i k with
  | zero => simp [tabulateFrom] at h
  | succ n ih =>
    cases k with
    | zero => simp [tabulateFrom]
    | succ k => simp [tabulateFrom, ih, Nat.add_comm, Nat.add_left_comm]

/-- Entry `i` of a table made from `f` is `f i`. -/
@[simp] theorem lookup_tabulate (f : Byte → Word) (i : Byte) : lookup (tabulate f) i = f i := by
  simp [lookup, tabulate, getElem_tabulateFrom]

/-- Rule R82: entry `i` of `table(poly)` is `entry(poly, i)`. -/
@[simp] theorem lookup_crcTable (poly : Word) (i : Byte) : lookup (crcTable poly) i = entry poly i := by
  simp [crcTable]

/-- Two tables with the same entries are the same table. -/
theorem table_ext {T U : Table} (h : ∀ i : Byte, lookup T i = lookup U i) : T = U := by
  apply Vector.ext
  intro k hk
  have := h (BitVec.ofNat 8 k)
  simpa [lookup, Nat.mod_eq_of_lt hk] using this

/-! ### The buffer's cell view -/

theorem Memory.wfFrom_cellsFrom (i : Nat) (bs : List Byte) : Memory.wfFrom i (cellsFrom i bs) = true := by
  induction bs generalizing i with
  | nil => rfl
  | cons b bs ih => simp [cellsFrom, Memory.wfFrom, ih]

/-- The cell view of any buffer has the canonical form; so every operation on the buffer keeps it. -/
theorem Memory.wf_bufferCells (buf : List Byte) : Memory.wf (bufferCells buf) = true :=
  Memory.wfFrom_cellsFrom 0 buf

/-- The machine's memory after reset has the canonical form. -/
theorem Memory.wf_reset : Memory.wf (bufferCells State.reset.buf) = true := Memory.wf_bufferCells _

theorem length_cellsFrom (i : Nat) (bs : List Byte) : (cellsFrom i bs).length = bs.length := by
  induction bs generalizing i with
  | nil => rfl
  | cons b bs ih => simp [cellsFrom, ih]

theorem getElem_cellsFrom (i k : Nat) (bs : List Byte) (h : k < (cellsFrom i bs).length) :
    (cellsFrom i bs)[k] = (i + k, bs[k]'(by rwa [length_cellsFrom] at h)) := by
  induction bs generalizing i k with
  | nil => simp [cellsFrom] at h
  | cons b bs ih =>
    cases k with
    | zero => simp [cellsFrom]
    | succ k => simp [cellsFrom, ih, Nat.add_comm, Nat.add_left_comm]

/-- Cell `i` of the view is what `MemRead(i, 1)` returns, at address `i`. -/
theorem getElem_bufferCells (buf : List Byte) (i : Nat) (h : i < buf.length) :
    (bufferCells buf)[i]'(by simpa [bufferCells, length_cellsFrom] using h) = (i, memRead buf i h) := by
  simp [bufferCells, getElem_cellsFrom, memRead]

/-! ### The order of checks -/

/-- Everything `command` can do: discard, SequenceError, TableNotValid, or the effect. It always answers a next state. -/
theorem command_cases (legal : Phase → Bool) (needsTable : Bool) (effect : State → State) (s : State) :
    (s.f = true ∧ command legal needsTable effect s = .next s) ∨
    (s.f = false ∧ legal s.phase = false ∧ command legal needsTable effect s = .next (s.raise .sequenceError)) ∨
    (s.f = false ∧ legal s.phase = true ∧ (needsTable = true ∧ s.tv = false) ∧
      command legal needsTable effect s = .next (s.raise .tableNotValid)) ∨
    (s.f = false ∧ legal s.phase = true ∧ (needsTable = true → s.tv = true) ∧
      command legal needsTable effect s = .next (effect s)) := by
  unfold command
  cases s.f <;> cases legal s.phase <;> cases needsTable <;> cases s.tv <;> simp

theorem command_of_faulted {s : State} (legal : Phase → Bool) (needsTable : Bool) (effect : State → State)
    (h : s.f = true) : command legal needsTable effect s = .next s := by
  simp [command, h]

theorem command_of_illegal {s : State} {legal : Phase → Bool} (needsTable : Bool) (effect : State → State)
    (h : s.f = false) (hl : legal s.phase = false) :
    command legal needsTable effect s = .next (s.raise .sequenceError) := by
  simp [command, h, hl]

theorem command_of_noTable {s : State} {legal : Phase → Bool} (effect : State → State)
    (h : s.f = false) (hl : legal s.phase = true) (ht : s.tv = false) :
    command legal true effect s = .next (s.raise .tableNotValid) := by
  simp [command, h, hl, ht]

theorem command_of_legal {s : State} {legal : Phase → Bool} {needsTable : Bool} (effect : State → State)
    (h : s.f = false) (hl : legal s.phase = true) (ht : needsTable = true → s.tv = true) :
    command legal needsTable effect s = .next (effect s) := by
  cases needsTable <;> simp_all [command]

/-- `command` neither reads nor writes the host's queue and index, if its effect does not. -/
theorem command_host (rest : List HostAction) (pc : Nat) {legal : Phase → Bool} {needsTable : Bool}
    {effect : State → State} {s t : State}
    (he : effect { s with port := rest, pc := pc } = { effect s with port := rest, pc := pc })
    (h : command legal needsTable effect s = .next t) :
    command legal needsTable effect { s with port := rest, pc := pc } = .next { t with port := rest, pc := pc } := by
  rcases command_cases legal needsTable effect s with ⟨hf, hc⟩ | ⟨hf, hl, hc⟩ | ⟨hf, hl, ⟨hn, ht⟩, hc⟩ | ⟨hf, hl, ht, hc⟩ <;>
    rw [hc] at h <;> cases h
  · exact command_of_faulted _ _ _ hf
  · exact command_of_illegal _ _ hf hl
  · subst hn; exact command_of_noTable _ hf hl ht
  · rw [← he]; exact command_of_legal _ hf hl ht

end Sys2Proof.Machine
end

