-- ==== Sys2Proof/Laws/Folding.lean ====
section
/-! SUPPORT. What the fold functions and the effects of the fold commands do, once each. -/

namespace Sys2Proof.Machine

@[simp] theorem foldseq_nil (T : Table) (acc : Word) : foldseq T acc [] = acc := rfl

@[simp] theorem foldseq_cons (T : Table) (acc : Word) (b : Byte) (bs : List Byte) :
    foldseq T acc (b :: bs) = foldseq T (fold T acc b) bs := rfl

@[simp] theorem foldBuffer_zero (T : Table) (buf : List Byte) (i : Nat) (h : i + 0 ≤ buf.length) (acc : Word) :
    foldBuffer T buf 0 i h acc = acc := rfl

/-- One turn of FOLDM's loop. -/
theorem foldBuffer_succ (T : Table) (buf : List Byte) (n i : Nat) (h : i + (n + 1) ≤ buf.length) (acc : Word) :
    foldBuffer T buf (n + 1) i h acc =
      foldBuffer T buf n (i + 1) (by omega) (fold T acc (memRead buf i (by omega))) := rfl

/-- FOLDM's effect is one of two: InvalidLength, or the loop over the first `size` bytes. -/
theorem foldPrefix_cases (size : Nat) (s : State) :
    (s.buf.length < size ∧ foldPrefix size s = s.raise .invalidLength) ∨
    (∃ h : size ≤ s.buf.length, foldPrefix size s =
      (s.writeAcc (foldBuffer s.table s.buf size 0 (by omega) s.acc)).enter .folding) := by
  unfold foldPrefix
  split
  · exact .inr ⟨‹_›, rfl⟩
  · exact .inl ⟨by omega, rfl⟩

/-- FSEED's effect is one of two: the phase alone, or the four bytes folded. -/
theorem foldSeed_cases (seed : Word) (s : State) :
    (seed = 0 ∧ foldSeed seed s = s.enter .folding) ∨
    (seed ≠ 0 ∧ foldSeed seed s = (s.writeAcc (foldseq s.table s.acc (seedBytes seed))).enter .folding) := by
  unfold foldSeed
  split
  · exact .inl ⟨‹_›, rfl⟩
  · exact .inr ⟨‹_›, rfl⟩

end Sys2Proof.Machine
end

