-- ==== Sys2Proof/Laws/PerInstr.lean ====
section
/-! SUPPORT. Statements about every command as syntax, one lemma per constructor (family `Encoding`): the word of a
command is well formed, that is, it selects a row of the opcode map (rules R63, R67). -/

namespace Sys2Proof.Laws.Encoding

/-- The encoder "never produces a word with non-zero reserved bits" (R67): its word selects a row of the map. -/
def Statement (i : Instr) : Prop := wordWellFormed (encode i) = true

theorem mask_op_only : (0xFF00000000 : CommandWord) = formatC 0xFF 0 := by decide

theorem nop : Statement .nop := by unfold Statement; decide

theorem tgen (poly : Word) : Statement (.tgen poly) := by
  have h : OpcodeRow.selects ⟨"TGEN", 0xFF00000000, 0x0100000000⟩ (encode (.tgen poly)) = true := by
    rw [OpcodeRow.selects, mask_op_only, encode, formatC_and]; simp [formatC]
  exact List.any_eq_true.2 ⟨_, by simp [opcodeMap], h⟩

theorem init : Statement .init := by unfold Statement; decide

theorem fseed (seed : Word) : Statement (.fseed seed) := by
  have h : OpcodeRow.selects ⟨"FSEED", 0xFF00000000, 0x0300000000⟩ (encode (.fseed seed)) = true := by
    rw [OpcodeRow.selects, mask_op_only, encode, formatC_and]; simp [formatC]
  exact List.any_eq_true.2 ⟨_, by simp [opcodeMap], h⟩

theorem foldb (byte : Byte) : Statement (.foldb byte) := by
  have m : (0xFFFFFFFF00 : CommandWord) = formatC 0xFF (byteImm 0xFFFFFF 0) := by decide
  have h : OpcodeRow.selects ⟨"FOLDB", 0xFFFFFFFF00, 0x0400000000⟩ (encode (.foldb byte)) = true := by
    rw [OpcodeRow.selects, m, encode, formatC_and, byteImm_and]; simp [formatC, byteImm]
  exact List.any_eq_true.2 ⟨_, by simp [opcodeMap], h⟩

theorem foldm (size : Word) : Statement (.foldm size) := by
  have h : OpcodeRow.selects ⟨"FOLDM", 0xFF00000000, 0x0500000000⟩ (encode (.foldm size)) = true := by
    rw [OpcodeRow.selects, mask_op_only, encode, formatC_and]; simp [formatC]
  exact List.any_eq_true.2 ⟨_, by simp [opcodeMap], h⟩

theorem fin : Statement .fin := by unfold Statement; decide

end Sys2Proof.Laws.Encoding
end

