-- ==== Sys2Proof/Laws/Step.lean ====
section
/-! SUPPORT. What one step does, by the host's next action. -/

namespace Sys2Proof.Machine

theorem step_of_empty {s : State} (h : s.port = []) : step s = .next s := by
  simp [step, hostStep, h]

/-- A step with an action waiting performs it on the state whose queue is what remains. -/
theorem step_of_cons {s : State} {a : HostAction} {rest : List HostAction} (h : s.port = a :: rest) :
    step s = perform a (s.setPort rest) := by
  simp [step, hostStep, h]

theorem presentWord_of_faulted {s : State} (w : CommandWord) (h : s.f = true) : presentWord w s = .next s := by
  simp [presentWord, h]

theorem presentWord_of_ok {s : State} {w : CommandWord} {i : Instr} (h : s.f = false) (hd : decode w = .ok i) :
    presentWord w s = exec i s := by
  simp [presentWord, h, hd]

theorem presentWord_of_illegal {s : State} {w : CommandWord} {e : IllegalWord} (h : s.f = false)
    (hd : decode w = .error e) : presentWord w s = .next (s.raise .illegalCommand) := by
  simp [presentWord, h, hd]

/-- A read is answered with the specified value or with a free value; nothing else changes. -/
theorem readPort_cases (n : RegNum) (s : State) :
    (∃ v, specifiedRead n s = some v ∧ readPort n s = s.returnSpecified v) ∨
    (specifiedRead n s = Option.none ∧ readPort n s = s.returnUnspecified) := by
  unfold readPort
  cases h : specifiedRead n s with
  | some v => exact .inl ⟨v, rfl, rfl⟩
  | none => exact .inr ⟨rfl, rfl⟩

/-- Everything one step can do. -/
theorem step_cases (s : State) :
    (s.port = [] ∧ step s = .next s) ∨
    (∃ rest, s.port = .reset :: rest ∧ step s = .next (s.setPort rest).resetEngine) ∨
    (∃ w rest, s.port = .command w :: rest ∧ step s = presentWord w (s.setPort rest).countCommand) ∨
    (∃ n rest, s.port = .regRead n :: rest ∧ step s = .next (readPort n (s.setPort rest))) ∨
    (∃ bytes rest, s.port = .attach bytes :: rest ∧ step s = .next ((s.setPort rest).attachBuffer bytes)) := by
  cases h : s.port with
  | nil => exact .inl ⟨rfl, step_of_empty h⟩
  | cons a rest =>
    rw [step_of_cons h]
    cases a with
    | reset => exact .inr (.inl ⟨rest, rfl, rfl⟩)
    | command w => exact .inr (.inr (.inl ⟨w, rest, rfl, rfl⟩))
    | regRead n => exact .inr (.inr (.inr (.inl ⟨n, rest, rfl, rfl⟩)))
    | attach bytes => exact .inr (.inr (.inr (.inr ⟨bytes, rest, rfl, rfl⟩)))

end Sys2Proof.Machine
end

