-- ==== Sys2Proof/Tests/Slice0.lean ====
section
/-! SUPPORT. Tests on single steps, with expected values from spec/95_test_vectors.md and the worked examples of the command
rules, and one witness per statement of Certificates/Slice0/Obligations.lean that has hypotheses. -/

namespace Sys2Proof.Tests

open Sys2Proof Sys2Proof.Machine

/-! ### Helpers -/

/-- The standard polynomial (95_test_vectors.md, conventions). -/
def p32 : Word := 0xEDB88320

/-- The nine bytes "123456789". -/
def nine : List Byte := [0x31, 0x32, 0x33, 0x34, 0x35, 0x36, 0x37, 0x38, 0x39]

/-- An engine with the standard table in the given phase, `ACC` all ones and the nine bytes attached. -/
def eng (ph : Phase) : State :=
  { State.reset with table := crcTable p32, poly := p32, tv := true, phase := ph, acc := 0xFFFFFFFF, buf := nine }

/-- An engine that has had no TGEN, with no buffer bytes. -/
def bare (ph : Phase) : State := { State.reset with phase := ph, acc := 0xFFFFFFFF }

/-- A faulted engine (V34). -/
def faulted : State := { eng .folding with f := true, cause := .invalidLength }

/-- The host's next action. -/
def about (a : HostAction) (s : State) : State := { s with port := [a] }

/-- A part of the next state, where the answer is one. -/
def after {α : Type} (r : Result) (g : State → α) : Option α :=
  match r with
  | .next t => some (g t)
  | .fault _ => none
  | .refused _ => none

/-- `STATUS` after a step that presents the word. -/
def statusAfter (w : CommandWord) (s : State) : Option Word := after (step (about (.command w) s)) statusWord

/-! ### Well-formedness and decoding -/

/-- One ill-formed word for each check: an opcode without row; a reserved bit of NOP, INIT, FOLDB, FIN (V40). -/
theorem test_ill_formed_words :
    wordWellFormed 0x0700000000 = false ∧ wordWellFormed 0xFFFFFFFFFF = false ∧ wordWellFormed 0x0000000001 = false ∧
    wordWellFormed 0x0280000000 = false ∧ wordWellFormed 0x0400000100 = false ∧ wordWellFormed 0x0480000000 = false ∧
    wordWellFormed 0x0600000001 = false := by decide

/-- The seven rows select their words (V40). -/
theorem test_well_formed_words :
    wordWellFormed 0x0000000000 = true ∧ wordWellFormed 0x01FFFFFFFF = true ∧ wordWellFormed 0x0200000000 = true ∧
    wordWellFormed 0x03FFFFFFFF = true ∧ wordWellFormed 0x04000000FF = true ∧ wordWellFormed 0x05FFFFFFFF = true ∧
    wordWellFormed 0x0600000000 = true := by decide

/-- NOP, pattern 00000000 then 32 zeros (R63). -/
theorem test_decode_nop : decode 0b0000000000000000000000000000000000000000 = .ok .nop := by decide

/-- TGEN, pattern 00000001 then 32 bits p; here 0x82F63B78 (R63, P8). -/
theorem test_decode_tgen : decode 0b0000000110000010111101100011101101111000 = .ok (.tgen 0x82F63B78) := by decide

/-- INIT, pattern 00000010 then 32 zeros (R63). -/
theorem test_decode_init : decode 0b0000001000000000000000000000000000000000 = .ok .init := by decide

/-- FSEED, pattern 00000011 then 32 bits s; here 0x12345678 (R63, P2). -/
theorem test_decode_fseed : decode 0b0000001100010010001101000101011001111000 = .ok (.fseed 0x12345678) := by decide

/-- FOLDB, pattern 00000100, 24 zeros, 8 bits b; here 0x31 (R63, P2). -/
theorem test_decode_foldb : decode 0b0000010000000000000000000000000000110001 = .ok (.foldb 0x31) := by decide

/-- FOLDM, pattern 00000101 then 32 bits n; here 9 (R63, P1). -/
theorem test_decode_foldm : decode 0b0000010100000000000000000000000000001001 = .ok (.foldm 9) := by decide

/-- FIN, pattern 00000110 then 32 zeros (R63). -/
theorem test_decode_fin : decode 0b0000011000000000000000000000000000000000 = .ok .fin := by decide

/-- The illegal words of V40, by kind. -/
theorem test_decode_illegal :
    decode 0x0700000000 = .error .unassignedOpcode ∧ decode 0x8000000000 = .error .unassignedOpcode ∧
    decode 0xFFFFFFFFFF = .error .unassignedOpcode ∧ decode 0x0000000001 = .error .reservedOperandBits ∧
    decode 0x0280000000 = .error .reservedOperandBits ∧ decode 0x0400000100 = .error .reservedOperandBits ∧
    decode 0x0480000000 = .error .reservedOperandBits ∧ decode 0x0600000001 = .error .reservedOperandBits := by decide

/-- The word placed for the next step runs as the first command after reset (P7: STATUS 00000002 after INIT). -/
theorem test_fetch_word_runs :
    decodeTableWord 40 0x0200000000 = some .init ∧
    after (step (State.reset.withFetchWord 40 0x0200000000)) statusWord = some 2 := by decide +kernel

/-! ### One step of each command -/

/-- NOP in DONE leaves STATUS 00000007 (P3); with a reserved bit set it is illegal (V31: 00000028). -/
theorem test_nop : statusAfter 0x0000000000 (eng .done) = some 0x00000007 ∧
    statusAfter 0x0000000001 State.reset = some 0x00000028 := by decide +kernel

/-- TGEN's worked example (R83): three entries, POLY and STATUS after `01EDB88320` from reset. -/
theorem test_tgen : after (step (about (.command 0x01EDB88320) State.reset)) (fun t =>
      (lookup t.table 1, lookup t.table 0x80, lookup t.table 0xFF, t.poly, statusWord t)) =
    some (0x77073096, 0xEDB88320, 0x2D02EF8D, 0xEDB88320, 0x00000001) := by decide +kernel

/-- Corner polynomials (V11). -/
theorem test_tgen_corner_polynomials :
    entry 0x80000000 0x01 = 0x01000000 ∧ entry 0x80000000 0xFF = 0xFF000000 ∧ entry 0xFFFFFFFF 0xFF = 0x01FFFFFF ∧
    entry 0x00000001 0xFF = 0 ∧ entry 0x82F63B78 0x02 = 0xE13B70F7 := by decide +kernel

/-- INIT from DONE with a table: ACC all ones, STATUS 00000003 (R93, P3). -/
theorem test_init : after (step (about (.command 0x0200000000) { eng .done with acc := 5 })) (fun t =>
    (t.acc, statusWord t)) = some (0xFFFFFFFF, 0x00000003) := by decide +kernel

/-- FSEED 0x12345678: ACC 5092782D, STATUS 00000005 (R94, V21, P2). -/
theorem test_fseed : after (step (about (.command 0x0312345678) (eng .inited))) (fun t => (t.acc, statusWord t)) =
    some (0x5092782D, 0x00000005) := by decide +kernel

/-- FSEED 0 folds nothing (V23, P1); FSEED in FOLDING is a SequenceError (V32: 0000003D). -/
theorem test_fseed_zero_and_late :
    after (step (about (.command 0x0300000000) (eng .inited))) (fun t => (t.acc, statusWord t)) =
      some (0xFFFFFFFF, 0x00000005) ∧
    statusAfter 0x0300000001 (eng .folding) = some 0x0000003D := by decide +kernel

/-- FOLDB 0x31: ACC 7C231048 (R96, V1); byte 0 from all ones: 2DFD1072 (V20). -/
theorem test_foldb :
    after (step (about (.command 0x0400000031) (eng .inited))) (fun t => (t.acc, statusWord t)) =
      some (0x7C231048, 0x00000005) ∧
    after (step (about (.command 0x0400000000) (eng .folding))) State.acc = some 0x2DFD1072 := by decide +kernel

/-- FOLDB's faults: imm[8] set (V31: 0000002B), in IDLE before any TGEN (V32: 00000038), without a table (V33: 0000004A). -/
theorem test_foldb_faults :
    statusAfter 0x0400000100 (eng .inited) = some 0x0000002B ∧ statusAfter 0x0400000000 State.reset = some 0x00000038 ∧
    statusAfter 0x0400000000 (bare .inited) = some 0x0000004A := by decide +kernel

/-- FOLDM 9 of the nine bytes: ACC 340BC6D9 (R97, V1); FOLDM 4 folds the prefix: 641C1F5C (V20). -/
theorem test_foldm :
    after (step (about (.command 0x0500000009) (eng .inited))) State.acc = some 0x340BC6D9 ∧
    after (step (about (.command 0x0500000004) (eng .inited))) State.acc = some 0x641C1F5C := by decide +kernel

/-- FOLDM 10 of nine bytes: InvalidLength, STATUS 0000001D, ACC unchanged (V30); no table beats length (V33: 0000004A). -/
theorem test_foldm_faults :
    after (step (about (.command 0x050000000A) (eng .folding))) (fun t => (t.acc, statusWord t)) =
      some (0xFFFFFFFF, 0x0000001D) ∧
    statusAfter 0x0500000005 (bare .inited) = some 0x0000004A := by decide +kernel

/-- FIN: RESULT CBF43926, ACC kept, STATUS 00000007 (R99). -/
theorem test_fin : after (step (about (.command 0x0600000000) { eng .folding with acc := 0x340BC6D9 })) (fun t =>
    (t.result, t.acc, statusWord t)) = some (0xCBF43926, 0x340BC6D9, 0x00000007) := by decide +kernel

/-- FIN's faults: a second FIN (V32: 0000003F), FIN in IDLE (00000039), an illegal FIN before a phase check (V31: 00000028). -/
theorem test_fin_faults :
    statusAfter 0x0600000000 (eng .done) = some 0x0000003F ∧ statusAfter 0x0600000000 (eng .idle) = some 0x00000039 ∧
    statusAfter 0x0600000005 State.reset = some 0x00000028 := by decide +kernel

/-! ### The host's other actions, and the pure functions -/

/-- Words presented to a faulted engine change nothing, illegal ones included; reset gives STATUS 0 (V34). -/
theorem test_faulted_state :
    statusAfter 0xFFFFFFFFFF faulted = some 0x0000001D ∧ statusAfter 0x0200000000 faulted = some 0x0000001D ∧
    after (step (about .reset faulted)) statusWord = some 0 := by decide +kernel

/-- The read port after TGEN (V41). -/
theorem test_read_port :
    specifiedRead 0x000 (eng .idle) = some 0x00000001 ∧ specifiedRead 0x003 (eng .idle) = some 0xEDB88320 ∧
    specifiedRead 0x101 (eng .idle) = some 0x77073096 ∧ specifiedRead 0x1FF (eng .idle) = some 0x2D02EF8D ∧
    specifiedRead 0x001 (eng .idle) = none ∧ specifiedRead 0x002 (eng .idle) = none ∧
    specifiedRead 0x004 (eng .idle) = none ∧ specifiedRead 0x0FF (eng .done) = none ∧
    after (step (about (.regRead 0x180) (eng .idle))) State.readData = some (some 0xEDB88320) := by decide +kernel

/-- The known vector of the source (S1), a seeded one (V22) and the seed that acts like 0 (V26). -/
theorem test_checksums :
    crc p32 nine 0 = 0xCBF43926 ∧ crc p32 nine 0x12345678 = 0xAAD05244 ∧ crc p32 [] 0x6DD90A9D = 0 ∧
    crc 0x82F63B78 nine 0 = 0xE3069283 := by decide +kernel

/-- Assembler lines (R67, R68). -/
theorem test_assembler :
    assembleWords ['T', 'G', 'E', 'N', ' ', '0', 'x', 'E', 'D', 'B', '8', '8', '3', '2', '0', ' ', ';', 'x'] =
      .ok [0x01EDB88320] ∧
    assembleLine ['F', 'O', 'L', 'D', 'B', ' ', '2', '5', '5'] = .ok [.foldb 255] ∧
    assembleLine ['F', 'O', 'L', 'D', 'B', ' ', '2', '5', '6'] = .error .operandTooWide ∧
    assembleLine ['N', 'O', 'P', ' ', '0'] = .error .wrongOperands ∧
    assembleLine ['n', 'o', 'p'] = .error .unknownMnemonic ∧
    assembleWords ['C', 'O', 'M', 'P', 'U', 'T', 'E', ' ', '1', ',', ' ', '9', ',', ' ', '0'] =
      .ok [0x0100000001, 0x0200000000, 0x0300000000, 0x0500000009, 0x0600000000] := by decide +kernel

/-! ### Witnesses: concrete states and operands that meet the hypotheses of each statement -/

theorem inv_of_eng (ph : Phase) (h : ph ≠ .done) : (eng ph).Inv where
  cause_none_iff := ⟨fun _ => rfl, fun _ => rfl⟩
  table_of_poly := by
    have : ∀ i : Byte, lookup (crcTable p32) i = entry p32 i := by decide +kernel
    exact fun _ => this
  acc_of_inited := fun _ => rfl
  tv_of_folding := fun _ => rfl
  result_of_done := fun e => absurd e h

theorem witness_BitstepBitByBit : 31 < 32 ∧ (bitstep p32 0x80000001).getLsbD 31 = true ∧
    (bitstep p32 0x80000000).getLsbD 31 = false := by decide

theorem witness_FoldLoopIsFoldseqOfPrefix : 0 + 9 ≤ nine.length ∧ 0 + 0 ≤ ([] : List Byte).length := by decide

theorem witness_ZeroPolynomialShifts : (0x00000100 : Word) ≠ 0 := by decide

theorem witness_StandardPolynomialSeedsNeverCollide :
    (1 : Word) ≠ 0 ∧ (0xFFFFFFFF : Word) ≠ 0 ∧ (1 : Word) ≠ 0xFFFFFFFF ∧ (0x6DD90A9D : Word) ≠ 0 := by decide

theorem witness_SeedIsFourLeadingBytes :
    (eng .inited).f = false ∧ (eng .inited).phase = .inited ∧ (eng .inited).tv = true ∧ (0x01000000 : Word) ≠ 0 := by decide

theorem witness_DecodeOfEncode : (Instr.foldb 0xFF).wellFormed = true := by decide

theorem witness_EncodeOfDecode : decode 0x05FFFFFFFF = .ok (.foldm 0xFFFFFFFF) := by decide

theorem witness_IllegalWordsExactly : State.reset.f = false ∧ decode 0x0700000000 = .error .unassignedOpcode ∧
    decode 0x0680000000 = .error .reservedOperandBits ∧ decode 0x0400000100 = .error .reservedOperandBits := by decide

theorem witness_DecodeSelectsItsRow : (⟨"FOLDB", 0xFFFFFFFF00, 0x0400000000⟩ : OpcodeRow) ∈ opcodeMap ∧
    OpcodeRow.selects ⟨"FOLDB", 0xFFFFFFFF00, 0x0400000000⟩ 0x04000000FF = true := by decide

theorem witness_AssemblerRefusesWhatDoesNotFit : assembleWords ['F', 'I', 'N'] = .ok [0x0600000000] ∧
    readNumber ['2', '5', '5'] = some 255 ∧ readNumber ['0', 'x', '1', '0', '0'] = some 256 ∧
    (∀ c ∈ ['F', 'I', 'N'] ++ ['0'], c ≠ ' ' ∧ c ≠ '\t' ∧ c ≠ ',' ∧ c ≠ ';') :=
  ⟨by decide, by decide, by decide, by simp⟩

/-- One line for each clause on whole lines, at the edge of the field where there is one. -/
theorem witness_AssemblerRefusesWhatDoesNotFit_lines :
    tokens ['F', 'O', 'L', 'D', 'B', ' ', '2', '5', '6'] [] = [['F', 'O', 'L', 'D', 'B'], ['2', '5', '6']] ∧
    tokens ['T', 'G', 'E', 'N', ' ', '0', 'x', '0'] [] = [['T', 'G', 'E', 'N'], ['0', 'x', '0']] ∧
    tokens ['F', 'S', 'E', 'E', 'D', ' ', '1'] [] = [['F', 'S', 'E', 'E', 'D'], ['1']] ∧
    tokens ['F', 'O', 'L', 'D', 'M', ' ', '4', '2', '9', '4', '9', '6', '7', '2', '9', '6'] [] =
      [['F', 'O', 'L', 'D', 'M'], ['4', '2', '9', '4', '9', '6', '7', '2', '9', '6']] ∧
    readNumber ['4', '2', '9', '4', '9', '6', '7', '2', '9', '6'] = some (2 ^ 32) ∧
    tokens ['C', 'O', 'M', 'P', 'U', 'T', 'E', ' ', '1', ',', '9', ',', '0'] [] =
      [['C', 'O', 'M', 'P', 'U', 'T', 'E'], ['1'], [','], ['9'], [','], ['0']] ∧
    tokens ['N', 'O', 'P', ' ', ';', 'x'] [] = [['N', 'O', 'P']] ∧
    tokens ['I', 'N', 'I', 'T'] [] = [['I', 'N', 'I', 'T']] ∧ tokens ['F', 'I', 'N'] [] = [['F', 'I', 'N']] ∧
    assembleLine ['F', 'O', 'L', 'D', 'B', ' ', '2', '5', '6'] = .error .operandTooWide := by decide +kernel

theorem witness_StepRunsTheDecodedCommand : (eng .inited).f = false ∧
    (about (.command 0x0600000000) (eng .inited)).port = .command 0x0600000000 :: [] ∧
    decode 0x0600000000 = .ok .fin := by decide

theorem witness_PresentedCommandsRunInOrder :
    { eng .inited with port := [.command 0x0400000031, .command 0x0600000000, .reset] }.port =
      presented [.foldb 0x31, .fin] [.reset] := by decide

theorem witness_NothingPresentedHoldsTheState : (eng .done).port = [] := by decide

theorem witness_AttachChangesTheBufferOnly : (about (.attach [0xFF]) (eng .folding)).port = .attach [0xFF] :: [] := by decide

theorem witness_FaultedEngineDiscardsCommands : faulted.f = true ∧
    (about (.command 0x01EDB88320) faulted).port = .command 0x01EDB88320 :: [] ∧
    (about (.regRead 0x002) faulted).port = .regRead 0x002 :: [] ∧ specifiedRead 0x002 faulted = some 0xFFFFFFFF := by
  decide +kernel

theorem witness_OnlyResetLeavesTheFaultedState : (∃ t, step (about (.command 0x0200000000) faulted) = .next t) ∧
    (∃ t, step (about .reset faulted) = .next t) := ⟨⟨_, rfl⟩, ⟨_, rfl⟩⟩

theorem witness_FaultEntryIsPrecise : (eng .done).f = false ∧
    after (presentWord 0x0600000000 (eng .done)) State.f = some true := by decide +kernel

theorem witness_CausesAndTheirConditions :
    after (presentWord 0x050000000A (eng .folding)) (fun t => (t.f, t.cause)) = some (true, .invalidLength) ∧
    after (presentWord 0x0700000000 (eng .folding)) (fun t => (t.f, t.cause)) = some (true, .illegalCommand) ∧
    after (presentWord 0x0300000001 (eng .folding)) (fun t => (t.f, t.cause)) = some (true, .sequenceError) ∧
    after (presentWord 0x0400000000 (bare .inited)) (fun t => (t.f, t.cause)) = some (true, .tableNotValid) := by
  decide +kernel

theorem witness_FaultPriority :
    decode 0x0600000005 = .error .reservedOperandBits ∧
    (decode 0x0400000000 = .ok (.foldb 0) ∧ legalIn (.foldb 0) State.reset.phase = false ∧ State.reset.tv = false) ∧
    (decode 0x0500000005 = .ok (.foldm 5) ∧ legalIn (.foldm 5) (bare .inited).phase = true ∧
      needsTable (.foldm 5) = true ∧ (bare .inited).tv = false ∧ lengthOk (.foldm 5) (bare .inited) = false) ∧
    (decode 0x050000000A = .ok (.foldm 10) ∧ legalIn (.foldm 10) (eng .folding).phase = true ∧
      (eng .folding).tv = true ∧ lengthOk (.foldm 10) (eng .folding) = false) ∧
    (decode 0x0500000009 = .ok (.foldm 9) ∧ lengthOk (.foldm 9) (eng .folding) = true) := by decide +kernel

theorem witness_PhaseTable :
    (legalIn (.fseed 1) (eng .folding).phase = false) ∧
    (legalIn (.fseed 0) (bare .inited).phase = true ∧ needsTable (.fseed 0) = true ∧ (bare .inited).tv = false) ∧
    (legalIn .fin (bare .inited).phase = true ∧ needsTable .fin = false ∧ lengthOk .fin (bare .inited) = true) ∧
    (legalIn (.foldm 9) (eng .folding).phase = true ∧ (eng .folding).tv = true ∧
      lengthOk (.foldm 9) (eng .folding) = true) := by decide +kernel

theorem witness_FoldmBeyondTheBuffer : (eng .folding).f = false ∧ (eng .folding).phase = .folding ∧ (eng .folding).tv = true ∧
    (eng .folding).buf.length < (10 : Word).toNat ∧ (9 : Word).toNat ≤ (eng .folding).buf.length := by decide

theorem witness_FoldsNeedTheTable : (bare .inited).f = false ∧ (bare .inited).tv = false ∧ (bare .inited).phase = .inited ∧
    (bare .folding).phase = .folding := by decide

theorem witness_NopChangesNothing : (eng .done).f = false ∧ (0x80000000 : Word) ≠ 0 := by decide

theorem witness_TgenBuildsTheTable : (eng .folding).f = false := by decide

theorem witness_TablesOfOnePolynomialAreEqual : State.reset.f = false ∧ (eng .done).f = false := by decide

theorem witness_InitSetsTheAccumulator : (bare .done).f = false := by decide

theorem witness_FseedFoldsTheSeed : (eng .inited).f = false ∧ (eng .inited).phase = .inited ∧ (eng .inited).tv = true ∧
    (0x00000100 : Word) ≠ 0 ∧ (0 : Word) = 0 := by decide

theorem witness_FoldbFoldsItsByte : (eng .folding).f = false ∧ (eng .inited).phase = .inited ∧
    (eng .folding).phase = .folding ∧ (eng .folding).tv = true := by decide

theorem witness_FoldmFoldsThePrefix : (eng .inited).f = false ∧ (eng .inited).phase = .inited ∧ (eng .inited).tv = true ∧
    (9 : Word).toNat ≤ (eng .inited).buf.length ∧ (0 : Word).toNat ≤ (eng .inited).buf.length := by decide

theorem witness_FinDeliversTheComplement : (bare .inited).f = false ∧ (bare .inited).phase = .inited ∧
    (bare .folding).phase = .folding := by decide

theorem witness_FoldmIsItsFoldbs : (eng .folding).f = false ∧ (eng .folding).phase = .folding ∧ (eng .folding).tv = true ∧
    (9 : Word).toNat ≤ (eng .folding).buf.length ∧ (9 : Word) ≠ 0 ∧
    (4 : Word).toNat ≤ nine.length ∧ (9 : Word).toNat + (4 : Word).toNat < 2 ^ 32 := by decide

theorem witness_CommandFrame : (∃ t, exec (.tgen p32) (eng .folding) = .next t) ∧
    (∃ t, exec (.foldm 9) (eng .folding) = .next t) ∧ after (exec .fin (eng .idle)) State.f = some true ∧
    (faulted.f = true ∧ ∃ t, exec (.tgen 0) faulted = .next t) :=
  ⟨⟨_, rfl⟩, ⟨_, rfl⟩, by decide +kernel, by decide, ⟨_, rfl⟩⟩

theorem witness_NoCommandReadsPolyOrResult : (∃ t, exec (.foldb 0) (eng .folding) = .next t) ∧
    ((∃ t, exec .fin (eng .folding) = .next t) ∧ (eng .folding).f = false ∧ (eng .folding).phase = .folding) ∧
    (∃ t, exec .fin (eng .done) = .next t) ∧ (∃ t, exec (.tgen 0) (eng .done) = .next t) ∧
    (∃ t, exec (.tgen 0) faulted = .next t) :=
  ⟨⟨_, rfl⟩, ⟨⟨_, rfl⟩, rfl, rfl⟩, ⟨_, rfl⟩, ⟨_, rfl⟩, ⟨_, rfl⟩⟩

theorem witness_FoldmReadsThePrefixOnly : (2 : Word).toNat ≤ (eng .folding).buf.length ∧
    (2 : Word).toNat ≤ ([0x31, 0x32, 0xFF] : List Byte).length ∧
    (eng .folding).buf.take (2 : Word).toNat = ([0x31, 0x32, 0xFF] : List Byte).take (2 : Word).toNat := by decide

/-- Two states that differ in an accumulator and a result nobody specified agree, and both take the same step. -/
theorem witness_UnspecifiedValuesNeverLeak :
    Agree (about (.command 0x0200000000) (eng .idle)) (about (.command 0x0200000000) { eng .idle with acc := 1, result := 2 }) ∧
    (∃ t, step (about (.command 0x0200000000) (eng .idle)) = .next t) ∧
    (∃ t, step (about (.command 0x0200000000) { eng .idle with acc := 1, result := 2 }) = .next t) ∧
    specifiedRead 0x1FF (about (.regRead 0x1FF) (eng .idle)) = some 0x2D02EF8D :=
  ⟨⟨rfl, rfl, rfl, rfl, rfl, fun _ => rfl, fun _ => rfl, fun h => absurd rfl h, fun h => by cases h⟩,
    ⟨_, rfl⟩, ⟨_, rfl⟩, by decide +kernel⟩

theorem witness_ResetFromEveryState : (about .reset faulted).port = .reset :: [] := by decide

theorem witness_ReadPortTable :
    (about (.regRead 0x001) (eng .done)).port = .regRead 0x001 :: [] ∧ (eng .done).phase = .done ∧
    (eng .inited).phase = .inited ∧ (eng .idle).tv = true ∧
    (0x100 : RegNum).toNat = 0x100 + (0 : Byte).toNat ∧ (0x1FF : RegNum).toNat = 0x100 + (0xFF : Byte).toNat := by decide

theorem witness_SpecifiedOnlyByItsWriter :
    (∃ t, step (about (.command 0x0600000000) (eng .folding)) = .next t) ∧
    specifiedRead 0x001 (eng .folding) = none ∧
    after (step (about (.command 0x0600000000) (eng .folding))) (fun t => specifiedRead 0x001 t) = some (some 0) ∧
    specifiedRead 0x002 (eng .idle) = none ∧
    after (step (about (.command 0x0200000000) (eng .idle))) (fun t => specifiedRead 0x002 t) = some (some 0xFFFFFFFF) ∧
    specifiedRead 0x003 State.reset = none ∧ specifiedRead 0x101 State.reset = none ∧
    after (step (about (.command 0x01EDB88320) State.reset)) (fun t => (specifiedRead 0x003 t, specifiedRead 0x101 t)) =
      some (some 0xEDB88320, some 0x77073096) :=
  ⟨⟨_, rfl⟩, by decide +kernel⟩

theorem witness_StatusLayout : (∃ t, step (about (.attach []) (eng .folding)) = .next t) ∧
    (∀ w rest, (about (.attach []) (eng .folding)).port ≠ .command w :: rest) ∧
    (∀ rest, (about (.attach []) (eng .folding)).port ≠ .reset :: rest) :=
  ⟨⟨_, rfl⟩, by simp [about], by simp [about]⟩

theorem witness_StepKeepsTheInvariant : (about (.command 0x0500000009) (eng .folding)).Inv ∧
    ∃ t, step (about (.command 0x0500000009) (eng .folding)) = .next t :=
  ⟨⟨by decide, (inv_of_eng .folding (by decide)).table_of_poly, by decide, fun _ => rfl, by decide⟩, ⟨_, rfl⟩⟩

theorem witness_TableValidSetByTgenClearedByReset :
    (State.reset.tv = false ∧ after (step (about (.command 0x0100000000) State.reset)) State.tv = some true) ∧
    ((eng .done).tv = true ∧ after (step (about .reset (eng .done))) State.tv = some false) ∧
    decode 0x0100000000 = .ok (.tgen 0) := by decide +kernel

theorem witness_TgenAbandonsTheChecksum : (eng .folding).f = false ∧
    ∀ i ∈ [Instr.foldb 0x31, .fin, .nop], i ≠ Instr.init := by decide

theorem witness_NothingFoldedWithoutTgen : State.reset.tv = false ∧
    ∀ i ∈ [Instr.init, .foldb 0x31, .fin], ∀ p, i ≠ Instr.tgen p := ⟨rfl, by simp⟩

theorem witness_ResultStandsUntilInitOrTgen : (eng .done).phase = .done ∧
    ∀ i ∈ [Instr.nop, .fin, .foldm 9], i ≠ Instr.init ∧ ∀ p, i ≠ Instr.tgen p := ⟨rfl, by simp⟩

theorem witness_ShortestSequencesDeliverZero : (bare .folding).f = false := by decide

theorem witness_TableServesFurtherChecksums : (eng .idle).Inv ∧ (eng .idle).f = false ∧ (eng .idle).tv = true ∧
    (9 : Word).toNat ≤ (eng .idle).buf.length := ⟨inv_of_eng .idle (by decide), by decide⟩

/-- The state in which the five words of COMPUTE are waiting. -/
def computing (size : Word) : State := { eng .folding with port := presented (computeSequence p32 size 0x12345678) [] }

theorem witness_ComputeDeliversTheChecksum : (computing 9).Inv ∧ (computing 9).f = false ∧
    (computing 9).port = presented (computeSequence p32 9 0x12345678) [] ∧
    (9 : Word).toNat ≤ (computing 9).buf.length ∧ (computing 10).buf.length < (10 : Word).toNat :=
  ⟨⟨by decide, (inv_of_eng .folding (by decide)).table_of_poly, by decide, fun _ => rfl, by decide⟩, by decide⟩

end Sys2Proof.Tests
end

/-! ## What a command, a step and a read do

The rules that the proofs of the obligations about the state share. `firstFault` and `completed` say what the checks of
rule R111 answer and what a command writes when none of them fails; `exec_of_fault` and `exec_of_noFault` tie them to
`exec`. -/

namespace Sys2Proof.Machine

/-! ### The encoder and the decoder -/

theorem decode_encode (i : Instr) : decode (encode i) = .ok i := by
  cases i <;> simp [encode, decode, withoutOperand, withByteOperand]

/-! ### FOLDM's loop -/

/-- Rule R97's closed form, from any index. -/
theorem foldBuffer_eq_foldseq (T : Table) (buf : List Byte) (n i : Nat) (h : i + n ≤ buf.length) (acc : Word) :
    foldBuffer T buf n i h acc = foldseq T acc ((buf.drop i).take n) := by
  induction n generalizing i acc with
  | zero => simp
  | succ n ih =>
    have hi : i < buf.length := by omega
    rw [foldBuffer_succ, ih, List.drop_eq_getElem_cons hi, List.take_succ_cons, foldseq_cons, memRead]

/-! ### The effects of the commands -/

/-- The state in which a command ends when none of the checks of rule R111 fails. -/
def completed (i : Instr) (s : State) : State :=
  match i with
  | .nop => s
  | .tgen poly => buildTable poly s
  | .init => initAcc s
  | .fseed seed => (s.writeAcc (seedStep s.table seed s.acc)).enter .folding
  | .foldb byte => foldByte byte s
  | .foldm size => (s.writeAcc (foldseq s.table s.acc (s.buf.take size.toNat))).enter .folding
  | .fin => finish s

theorem foldSeed_eq_completed (seed : Word) : foldSeed seed = completed (.fseed seed) := by
  funext s
  by_cases h : seed = 0
  · simp only [foldSeed, completed, seedStep, h, if_true]; rfl
  · simp only [foldSeed, completed, seedStep, h, if_false]

theorem foldPrefix_eq_completed (size : Word) : foldPrefix (sizeOperand size) = fun s =>
    if lengthOk (.foldm size) s = true then completed (.foldm size) s else s.raise .invalidLength := by
  funext s
  rcases foldPrefix_cases (sizeOperand size) s with ⟨h, e⟩ | ⟨h, e⟩ <;> rw [e] <;> rw [sizeOperand] at h
  · simp [lengthOk, h]
  · simp [lengthOk, h, completed, sizeOperand, foldBuffer_eq_foldseq]

@[simp] theorem completed_f (i : Instr) (s : State) : (completed i s).f = s.f := by cases i <;> rfl
@[simp] theorem completed_cause (i : Instr) (s : State) : (completed i s).cause = s.cause := by cases i <;> rfl
@[simp] theorem completed_buf (i : Instr) (s : State) : (completed i s).buf = s.buf := by cases i <;> rfl
@[simp] theorem completed_port (i : Instr) (s : State) : (completed i s).port = s.port := by cases i <;> rfl
@[simp] theorem completed_pc (i : Instr) (s : State) : (completed i s).pc = s.pc := by cases i <;> rfl
@[simp] theorem completed_readData (i : Instr) (s : State) : (completed i s).readData = s.readData := by cases i <;> rfl
@[simp] theorem completed_draws (i : Instr) (s : State) : (completed i s).draws = s.draws := by cases i <;> rfl

@[simp] theorem completed_phase (i : Instr) (s : State) : (completed i s).phase = phaseAfter i s.phase := by
  cases i <;> rfl

/-- The column "Written by" of rule R20, for TABLE, POLY and TV. -/
theorem completed_table_of_ne_tgen {i : Instr} (h : ∀ p, i ≠ .tgen p) (s : State) :
    (completed i s).table = s.table ∧ (completed i s).poly = s.poly ∧ (completed i s).tv = s.tv := by
  cases i with
  | tgen p => exact absurd rfl (h p)
  | _ => exact ⟨rfl, rfl, rfl⟩

/-- `TV` afterwards (R29): no command clears it and TGEN alone sets it. -/
theorem completed_tv (i : Instr) (s : State) :
    (completed i s).tv = true ↔ s.tv = true ∨ ∃ p, i = .tgen p := by
  cases i with
  | tgen p => simp [completed, buildTable]
  | _ => simp [completed_table_of_ne_tgen]

/-- The column "Written by" of rule R20, for RESULT. -/
theorem completed_result_of_ne_fin {i : Instr} (h : i ≠ .fin) (s : State) : (completed i s).result = s.result := by
  cases i with
  | fin => exact absurd rfl h
  | _ => rfl

/-- The column "Written by" of rule R20, for ACC. -/
theorem completed_acc_of_nop_tgen_fin {i : Instr} (h : i = .nop ∨ (∃ p, i = .tgen p) ∨ i = .fin) (s : State) :
    (completed i s).acc = s.acc := by
  rcases h with rfl | ⟨p, rfl⟩ | rfl <;> rfl

/-! ### The checks -/

/-- The cause that the checks of rule R111 answer for a decoded command while `F = 0`, in the order of rule R130; none when
the command completes. -/
def firstFault (i : Instr) (s : State) : Cause :=
  if legalIn i s.phase = false then .sequenceError
  else if needsTable i = true ∧ s.tv = false then .tableNotValid
  else if lengthOk i s = false then .invalidLength
  else .none

theorem lengthOk_congr {s t : State} (i : Instr) (hb : s.buf = t.buf) : lengthOk i s = lengthOk i t := by
  cases i <;> simp [lengthOk, hb]

/-- The checks look at the phase, at `TV` and at the buffer's length. -/
theorem firstFault_congr {s t : State} (i : Instr) (hp : s.phase = t.phase) (ht : s.tv = t.tv) (hb : s.buf = t.buf) :
    firstFault i s = firstFault i t := by
  simp [firstFault, hp, ht, lengthOk_congr i hb]

theorem firstFault_eq_none_iff (i : Instr) (s : State) : firstFault i s = .none ↔
    legalIn i s.phase = true ∧ (needsTable i = true → s.tv = true) ∧ lengthOk i s = true := by
  unfold firstFault
  cases legalIn i s.phase <;> cases needsTable i <;> cases s.tv <;> cases lengthOk i s <;> decide

theorem firstFault_tgen (p : Word) (s : State) : firstFault (.tgen p) s = .none := rfl

theorem firstFault_fin_iff (s : State) : firstFault .fin s = .none ↔ s.phase = .inited ∨ s.phase = .folding := by
  simp [firstFault_eq_none_iff, legalIn, needsTable, lengthOk]

/-! ### Executing a command -/

/-- Every command is the shared order of checks of rule R111, with its row of the table of rule R112. -/
theorem exec_eq_command (i : Instr) (s : State) : exec i s = command (legalIn i) (needsTable i)
    (fun t => if lengthOk i t = true then completed i t else t.raise .invalidLength) s := by
  have any (j : Instr) (h : ∀ p, legalIn j p = true) : anyPhase = legalIn j := by
    funext p; rw [h]; cases p <;> rfl
  have seed (v : Word) : seedPhase = legalIn (.fseed v) := by funext p; cases p <;> rfl
  have fold (j : Instr) (h : ∀ p, legalIn j p = (p == .inited || p == .folding)) : foldPhase = legalIn j := by
    funext p; rw [h]; cases p <;> rfl
  cases i with
  | nop => rw [← any .nop fun _ => rfl]; rfl
  | tgen p => rw [← any (.tgen p) fun _ => rfl]; rfl
  | init => rw [← any .init fun _ => rfl]; rfl
  | fseed v => rw [← seed]; simp only [exec, execFseed, foldSeed_eq_completed]; rfl
  | foldb b => rw [← fold (.foldb b) fun _ => rfl]; rfl
  | foldm n => rw [← fold (.foldm n) fun _ => rfl]; simp only [exec, execFoldm, foldPrefix_eq_completed]; rfl
  | fin => rw [← fold .fin fun _ => rfl]; rfl

/-- Everything `exec` can do: discard, raise the first fault, or complete. -/
theorem exec_cases (i : Instr) (s : State) :
    (s.f = true ∧ exec i s = .next s) ∨
    (s.f = false ∧ firstFault i s ≠ .none ∧ exec i s = .next (s.raise (firstFault i s))) ∨
    (s.f = false ∧ firstFault i s = .none ∧ exec i s = .next (completed i s)) := by
  rw [exec_eq_command]
  rcases command_cases (legalIn i) (needsTable i) _ s with
    ⟨hf, hc⟩ | ⟨hf, hl, hc⟩ | ⟨hf, hl, ⟨hn, ht⟩, hc⟩ | ⟨hf, hl, ht, hc⟩ <;> rw [hc]
  · exact .inl ⟨hf, rfl⟩
  · simp [hf, firstFault, hl]
  · simp [hf, firstFault, hl, hn, ht]
  · have hn : ¬(needsTable i = true ∧ s.tv = false) := fun h => by simp [ht h.1] at h
    cases hlen : lengthOk i s <;> simp [hf, firstFault, hl, hn, hlen]

theorem exec_of_faulted {s : State} (i : Instr) (h : s.f = true) : exec i s = .next s := by
  rw [exec_eq_command, command_of_faulted _ _ _ h]

theorem exec_of_noFault {i : Instr} {s : State} (h : s.f = false) (hc : firstFault i s = .none) :
    exec i s = .next (completed i s) := by
  obtain ⟨hl, ht, hn⟩ := (firstFault_eq_none_iff i s).1 hc
  rw [exec_eq_command, command_of_legal _ h hl ht, if_pos hn]

theorem exec_of_fault {i : Instr} {s : State} (h : s.f = false) (hc : firstFault i s ≠ .none) :
    exec i s = .next (s.raise (firstFault i s)) := by
  rcases exec_cases i s with ⟨hf, -⟩ | ⟨-, -, he⟩ | ⟨-, hn, -⟩
  · simp [h] at hf
  · exact he
  · exact absurd hn hc

theorem exec_next (i : Instr) (s : State) : ∃ t, exec i s = .next t := by
  rcases exec_cases i s with ⟨-, he⟩ | ⟨-, -, he⟩ | ⟨-, -, he⟩ <;> exact ⟨_, he⟩

/-- No command touches the buffer or the host's side (R44, R22). -/
theorem exec_host {i : Instr} {s t : State} (h : exec i s = .next t) :
    t.buf = s.buf ∧ t.port = s.port ∧ t.pc = s.pc ∧ t.readData = s.readData ∧ t.draws = s.draws := by
  rcases exec_cases i s with ⟨-, he⟩ | ⟨-, -, he⟩ | ⟨-, -, he⟩ <;> rw [he] at h <;> cases h <;> simp

/-- No command reads the host's queue or `pc` (R22). -/
theorem exec_setHost {i : Instr} {s t : State} (rest : List HostAction) (pc : Nat) (h : exec i s = .next t) :
    exec i { s with port := rest, pc := pc } = .next { t with port := rest, pc := pc } := by
  rw [exec_eq_command] at h ⊢
  refine command_host rest pc ?_ h
  have hlen : lengthOk i { s with port := rest, pc := pc } = lengthOk i s := lengthOk_congr i rfl
  simp only [hlen]
  split
  · cases i <;> rfl
  · rfl

/-! ### Commands one after another -/

theorem execAll_cons_of_exec {i : Instr} {s t : State} (is : List Instr) (h : exec i s = .next t) :
    execAll (i :: is) s = execAll is t := by
  simp only [execAll, h]

theorem presented_cons (i : Instr) (is : List Instr) (rest : List HostAction) :
    presented (i :: is) rest = .command (encode i) :: presented is rest := rfl

/-- A run of `n + 1` steps is a step and a run of `n`. -/
theorem run_succ_of_step {s t : State} (n : Nat) (h : step s = .next t) :
    Host.Core.run core (n + 1) s = Host.Core.run core n t := by
  have hcore : core.step s = .next t := h
  simp only [Host.Core.run, hcore]

/-! ### One step -/

/-- A word presented while `F = 0` that decodes to a command runs that command (R22, R111). -/
theorem step_of_command {s : State} {w : CommandWord} {rest : List HostAction} {i : Instr} (hf : s.f = false)
    (hp : s.port = .command w :: rest) (hd : decode w = .ok i) :
    step s = exec i (s.setPort rest).countCommand := by
  rw [step_of_cons hp, perform, presentWord_of_ok (by simpa using hf) hd]

/-- The word of a command presented in any state does what `exec` does, faulted or not (R133). -/
theorem presentWord_encode (i : Instr) (s : State) : presentWord (encode i) s = exec i s := by
  cases hf : s.f with
  | true => rw [presentWord_of_faulted _ hf, exec_of_faulted i hf]
  | false => exact presentWord_of_ok hf (decode_encode i)

/-- Everything a presented word can do: discarded, illegal, a command that raises a fault, or one that completes. -/
theorem presentWord_cases (w : CommandWord) (s : State) :
    (s.f = true ∧ presentWord w s = .next s) ∨
    (s.f = false ∧ (∃ e, decode w = .error e) ∧ presentWord w s = .next (s.raise .illegalCommand)) ∨
    (s.f = false ∧ ∃ i, decode w = .ok i ∧ firstFault i s ≠ .none ∧
      presentWord w s = .next (s.raise (firstFault i s))) ∨
    (s.f = false ∧ ∃ i, decode w = .ok i ∧ firstFault i s = .none ∧ presentWord w s = .next (completed i s)) := by
  cases hf : s.f with
  | true => exact .inl ⟨rfl, presentWord_of_faulted w hf⟩
  | false =>
    cases hd : decode w with
    | error e => exact .inr (.inl ⟨rfl, ⟨e, rfl⟩, presentWord_of_illegal hf hd⟩)
    | ok i =>
      rw [presentWord_of_ok hf hd]
      by_cases hc : firstFault i s = .none
      · exact .inr (.inr (.inr ⟨rfl, i, rfl, hc, exec_of_noFault hf hc⟩))
      · exact .inr (.inr (.inl ⟨rfl, i, rfl, hc, exec_of_fault hf hc⟩))

/-- The buffer and the host's side are no engine state (R20). -/
theorem sameEngine_host (s : State) (buf : List Byte) (port : List HostAction) (pc : Nat) (readData : Option Word)
    (draws : Nat) :
    SameEngine s { s with buf := buf, port := port, pc := pc, readData := readData, draws := draws } :=
  ⟨rfl, rfl, rfl, rfl, rfl, rfl, rfl, rfl⟩

/-- A read changes nothing of the engine (R32). -/
theorem sameEngine_readPort (n : RegNum) (rest : List HostAction) (s : State) :
    SameEngine s (readPort n (s.setPort rest)) := by
  rcases readPort_cases n (s.setPort rest) with ⟨v, -, h⟩ | ⟨-, h⟩ <;> rw [h] <;> exact sameEngine_host ..

/-- What one step can do to the engine: a reset; a command that completes; a presented word that faults; or nothing. -/
theorem step_engine_cases {s t : State} (h : step s = .next t) :
    (∃ rest, s.port = .reset :: rest ∧ t = (s.setPort rest).resetEngine) ∨
    (∃ w rest i, s.port = .command w :: rest ∧ s.f = false ∧ decode w = .ok i ∧ firstFault i s = .none ∧
      t = completed i (s.setPort rest).countCommand) ∨
    (∃ w rest c, s.port = .command w :: rest ∧ s.f = false ∧ c ≠ .none ∧
      t = (s.setPort rest).countCommand.raise c) ∨
    SameEngine s t := by
  rcases step_cases s with ⟨-, e⟩ | ⟨rest, hp, e⟩ | ⟨w, rest, hp, e⟩ | ⟨n, rest, -, e⟩ | ⟨bytes, rest, -, e⟩ <;>
    rw [e] at h
  · cases h; exact .inr (.inr (.inr (sameEngine_host ..)))
  · cases h; exact .inl ⟨rest, hp, rfl⟩
  · have hfirst (i : Instr) : firstFault i (s.setPort rest).countCommand = firstFault i s :=
      firstFault_congr i rfl rfl rfl
    rcases presentWord_cases w (s.setPort rest).countCommand with
      ⟨-, e⟩ | ⟨hf, -, e⟩ | ⟨hf, i, -, hc, e⟩ | ⟨hf, i, hd, hc, e⟩ <;> rw [e] at h <;> cases h
    · exact .inr (.inr (.inr (sameEngine_host ..)))
    · exact .inr (.inr (.inl ⟨w, rest, _, hp, hf, by decide, rfl⟩))
    · exact .inr (.inr (.inl ⟨w, rest, _, hp, hf, hc, rfl⟩))
    · exact .inr (.inl ⟨w, rest, i, hp, hf, hd, hfirst i ▸ hc, rfl⟩)
  · cases h; exact .inr (.inr (.inr (sameEngine_readPort n rest s)))
  · cases h; exact .inr (.inr (.inr (sameEngine_host ..)))

/-- What one step can do to `TV` and `PHASE`: keep both, clear both by a reset, or move them as the command that completes
says (R29, R112). -/
theorem step_control_cases {s t : State} (h : step s = .next t) :
    (t.tv = s.tv ∧ t.phase = s.phase) ∨
    (∃ rest, s.port = .reset :: rest ∧ t.tv = false ∧ t.phase = .idle) ∨
    (∃ w rest i, s.port = .command w :: rest ∧ decode w = .ok i ∧ legalIn i s.phase = true ∧
      (t.tv = true ↔ s.tv = true ∨ ∃ p, i = .tgen p) ∧ t.phase = phaseAfter i s.phase) := by
  rcases step_engine_cases h with
    ⟨rest, hp, rfl⟩ | ⟨w, rest, i, hp, -, hd, hc, rfl⟩ | ⟨w, rest, c, -, -, -, rfl⟩ | he
  · exact .inr (.inl ⟨rest, hp, rfl, rfl⟩)
  · obtain ⟨hl, -, -⟩ := (firstFault_eq_none_iff i s).1 hc
    exact .inr (.inr ⟨w, rest, i, hp, hd, hl, completed_tv i _, completed_phase i _⟩)
  · exact .inl ⟨rfl, rfl⟩
  · exact .inl ⟨he.tv.symm, he.phase.symm⟩

/-- `TV` is set by TGEN only (R29). -/
theorem tgen_of_step_sets_tv {s t : State} (h : step s = .next t) (hs : s.tv = false) (ht : t.tv = true) :
    ∃ w rest p, s.port = .command w :: rest ∧ decode w = .ok (.tgen p) := by
  rcases step_control_cases h with ⟨e, -⟩ | ⟨rest, -, e, -⟩ | ⟨w, rest, i, hp, hd, -, e, -⟩
  · simp [e, hs] at ht
  · simp [e] at ht
  · obtain hs' | ⟨p, rfl⟩ := e.1 ht
    · simp [hs] at hs'
    · exact ⟨w, rest, p, hp, hd⟩

/-- `TV` is cleared by reset only (R29). -/
theorem reset_of_step_clears_tv {s t : State} (h : step s = .next t) (hs : s.tv = true) (ht : t.tv = false) :
    ∃ rest, s.port = .reset :: rest := by
  rcases step_control_cases h with ⟨e, -⟩ | ⟨rest, hp, -, -⟩ | ⟨w, rest, i, -, -, -, e, -⟩
  · simp [e, hs] at ht
  · exact ⟨rest, hp⟩
  · simp [e.2 (.inl hs)] at ht

/-- DONE is entered by FIN only (R112). -/
theorem fin_of_step_enters_done {s t : State} (h : step s = .next t) (hs : s.phase ≠ .done) (ht : t.phase = .done) :
    ∃ w rest, s.port = .command w :: rest ∧ decode w = .ok .fin := by
  rcases step_control_cases h with ⟨-, e⟩ | ⟨rest, -, -, e⟩ | ⟨w, rest, i, hp, hd, -, -, e⟩ <;> rw [e] at ht
  · exact absurd ht hs
  · cases ht
  · cases i with
    | fin => exact ⟨w, rest, hp, hd⟩
    | nop => exact absurd ht hs
    | _ => cases ht

/-- IDLE is left by INIT only (R112). -/
theorem init_of_step_leaves_idle {s t : State} (h : step s = .next t) (hs : s.phase = .idle) (ht : t.phase ≠ .idle) :
    ∃ w rest, s.port = .command w :: rest ∧ decode w = .ok .init := by
  rcases step_control_cases h with ⟨-, e⟩ | ⟨rest, -, -, e⟩ | ⟨w, rest, i, hp, hd, hl, -, e⟩ <;> rw [e] at ht
  · exact absurd hs ht
  · exact absurd rfl ht
  · rw [hs] at hl ht
    cases i with
    | init => exact ⟨w, rest, hp, hd⟩
    | nop | tgen p => exact absurd rfl ht
    | _ => cases hl

/-! ### STATUS -/

theorem statusWord_congr {s t : State} (htv : s.tv = t.tv) (hp : s.phase = t.phase) (hf : s.f = t.f)
    (hc : s.cause = t.cause) : statusWord s = statusWord t := by
  simp [statusWord, htv, hp, hf, hc]

/-- Rule R31 in numbers: the weights of the four fields. -/
theorem toNat_statusWord (s : State) : (statusWord s).toNat =
    (causeCode s.cause).toNat * 16 + s.f.toNat * 8 + (phaseCode s.phase).toNat * 2 + s.tv.toNat := by
  have hc := (causeCode s.cause).isLt
  have hp := (phaseCode s.phase).isLt
  have hf := s.f.toNat_lt
  have ht := s.tv.toNat_lt
  simp only [statusWord, BitVec.toNat_setWidth, BitVec.toNat_append, BitVec.toNat_ofBool]
  rw [← Nat.shiftLeft_add_eq_or_of_lt (by omega), ← Nat.shiftLeft_add_eq_or_of_lt (by omega),
    ← Nat.shiftLeft_add_eq_or_of_lt (by omega)]
  simp only [Nat.shiftLeft_eq]
  omega

/-- A field of STATUS at bit `k` is what the weights leave of it there. -/
theorem extract_statusWord {k n : Nat} {x : BitVec n} {s : State}
    (h : (statusWord s).toNat / 2 ^ k % 2 ^ n = x.toNat) : (statusWord s).extractLsb' k n = x := by
  apply BitVec.eq_of_toNat_eq
  rw [BitVec.extractLsb'_toNat, Nat.shiftRight_eq_div_pow, h]

/-- The layout of STATUS (R31). -/
theorem statusWord_fields (s : State) :
    (statusWord s).extractLsb' 0 1 = BitVec.ofBool s.tv ∧
    (statusWord s).extractLsb' 1 2 = phaseCode s.phase ∧
    (statusWord s).extractLsb' 3 1 = BitVec.ofBool s.f ∧
    (statusWord s).extractLsb' 4 4 = causeCode s.cause ∧
    (statusWord s).extractLsb' 8 24 = 0 := by
  have hweights := toNat_statusWord s
  have hc := (causeCode s.cause).isLt
  have hp := (phaseCode s.phase).isLt
  have hf := s.f.toNat_lt
  have ht := s.tv.toNat_lt
  have hfbit := BitVec.toNat_ofBool s.f
  have htbit := BitVec.toNat_ofBool s.tv
  have hzero : (0 : BitVec 24).toNat = 0 := rfl
  refine ⟨extract_statusWord ?_, extract_statusWord ?_, extract_statusWord ?_, extract_statusWord ?_,
    extract_statusWord ?_⟩ <;> omega

/-- Codes 5 to 15 are never produced (R31, R125). -/
theorem toNat_causeCode_le (c : Cause) : (causeCode c).toNat ≤ 4 := by cases c <;> decide

/-! ### The read port -/

theorem getLsbD_eight_iff (n : RegNum) : n.getLsbD 8 = true ↔ 0x100 ≤ n.toNat := by
  have h : n.getLsbD 8 = n.msb := (BitVec.msb_eq_getLsbD_last n).symm
  rw [h, BitVec.msb_eq_decide, decide_eq_true_iff]

/-- The condition column of rule R32. -/
theorem specifiedRead_isSome_iff (n : RegNum) (s : State) : (specifiedRead n s).isSome = true ↔
    n = 0x000 ∨ (n = 0x001 ∧ s.phase = .done) ∨ (n = 0x002 ∧ s.phase ≠ .idle) ∨
      ((n = 0x003 ∨ 0x100 ≤ n.toNat) ∧ s.tv = true) := by
  rw [← getLsbD_eight_iff]
  by_cases h0 : n = 0#9
  · simp [specifiedRead, h0]
  by_cases h1 : n = 1#9
  · simp [specifiedRead, h1]
  by_cases h2 : n = 2#9
  · simp [specifiedRead, h2]
  by_cases h3 : n = 3#9
  · simp [specifiedRead, h3]
  by_cases h8 : n[8] = true <;> simp [specifiedRead, h0, h1, h2, h3, h8]

theorem specifiedRead_status (s : State) : specifiedRead 0x000 s = some (statusWord s) := rfl

theorem specifiedRead_result {s : State} (h : s.phase = .done) : specifiedRead 0x001 s = some s.result := by
  simp [specifiedRead, h]

theorem specifiedRead_acc {s : State} (h : s.phase ≠ .idle) : specifiedRead 0x002 s = some s.acc := by
  simp [specifiedRead, h]

theorem specifiedRead_poly {s : State} (h : s.tv = true) : specifiedRead 0x003 s = some s.poly := by
  simp [specifiedRead, h]

/-- `TABLE[i]` is register number `0x100 + i` (R32). -/
theorem specifiedRead_table {s : State} {n : RegNum} {i : Byte} (hn : n.toNat = 0x100 + i.toNat) (h : s.tv = true) :
    specifiedRead n s = some (lookup s.table i) := by
  have h8 : n.getLsbD 8 = true := (getLsbD_eight_iff n).2 (by omega)
  have hi : n.extractLsb' 0 8 = i := by
    apply BitVec.eq_of_toNat_eq
    have := i.isLt
    simp [hn]; omega
  have ne (k : RegNum) (hk : k.toNat < 0x100) : n ≠ k := fun e => by rw [e] at hn; omega
  simp only [specifiedRead, ne 0x000 (by decide), ne 0x001 (by decide), ne 0x002 (by decide), ne 0x003 (by decide), h8, hi,
    h, if_true, if_false]

/-- With no table and in IDLE STATUS alone is specified (R35). -/
theorem specifiedRead_of_idle_of_noTable (n : RegNum) {s : State} (hp : s.phase = .idle) (ht : s.tv = false) :
    specifiedRead n s = if n = 0 then some (statusWord s) else Option.none := by
  simp [specifiedRead, hp, ht]

/-- A read returns some value, the specified one where there is one, and changes nothing else but the draw counter. -/
theorem readPort_returns (n : RegNum) (s : State) :
    ∃ v, readPort n s = { s with readData := some v, draws := (readPort n s).draws } ∧
      ∀ u, specifiedRead n s = some u → v = u := by
  rcases readPort_cases n s with ⟨v, hv, h⟩ | ⟨hv, h⟩ <;> rw [h, hv]
  · exact ⟨v, rfl, fun u e => Option.some.inj e⟩
  · exact ⟨_, rfl, fun u e => by cases e⟩

theorem readData_readPort {n : RegNum} {s : State} {v : Word} (h : specifiedRead n s = some v) :
    (readPort n s).readData = some v := by
  obtain ⟨u, hr, hu⟩ := readPort_returns n s
  rw [hr, ← hu v h]

/-- What a read returns does not depend on the queue. -/
theorem specifiedRead_setPort (n : RegNum) (rest : List HostAction) (s : State) :
    specifiedRead n (s.setPort rest) = specifiedRead n s := rfl

/-! ### Agreement on what is specified -/

section
variable {s t : State} (h : Agree s t)
include h

theorem Agree.setPort (rest rest' : List HostAction) : Agree (s.setPort rest) (t.setPort rest') :=
  ⟨h.tv, h.phase, h.f, h.cause, h.buf, h.table, h.poly, h.acc, h.result⟩

theorem Agree.countCommand : Agree s.countCommand t.countCommand :=
  ⟨h.tv, h.phase, h.f, h.cause, h.buf, h.table, h.poly, h.acc, h.result⟩

theorem Agree.attachBuffer (bytes : List Byte) : Agree (s.attachBuffer bytes) (t.attachBuffer bytes) :=
  ⟨h.tv, h.phase, h.f, h.cause, rfl, h.table, h.poly, h.acc, h.result⟩

theorem Agree.raise (c : Cause) : Agree (s.raise c) (t.raise c) :=
  ⟨h.tv, h.phase, rfl, rfl, h.buf, h.table, h.poly, h.acc, h.result⟩

theorem Agree.resetEngine : Agree s.resetEngine t.resetEngine :=
  ⟨rfl, rfl, rfl, rfl, h.buf, nofun, nofun, fun e => absurd rfl e, nofun⟩

theorem Agree.readPort (n : RegNum) : Agree (readPort n s) (readPort n t) := by
  obtain ⟨v, hs, -⟩ := readPort_returns n s
  obtain ⟨u, ht, -⟩ := readPort_returns n t
  rw [hs, ht]
  exact ⟨h.tv, h.phase, h.f, h.cause, h.buf, h.table, h.poly, h.acc, h.result⟩

/-- A specified read has the same value in both states (R33). -/
theorem Agree.specifiedRead_eq (n : RegNum) : specifiedRead n s = specifiedRead n t := by
  have hstatus : statusWord s = statusWord t := statusWord_congr h.tv h.phase h.f h.cause
  have hresult : (if s.phase = .done then some s.result else Option.none) =
      if t.phase = .done then some t.result else Option.none := by
    rw [← h.phase]; exact ite_congr rfl (fun e => congrArg some (h.result e)) fun _ => rfl
  have hacc : (if s.phase = .idle then Option.none else some s.acc) =
      if t.phase = .idle then Option.none else some t.acc := by
    rw [← h.phase]; exact ite_congr rfl (fun _ => rfl) fun e => congrArg some (h.acc e)
  have hpoly : (if s.tv = true then some s.poly else Option.none) = if t.tv = true then some t.poly else Option.none := by
    rw [← h.tv]; exact ite_congr rfl (fun e => congrArg some (h.poly e)) fun _ => rfl
  have htable (i : Byte) : (if s.tv = true then some (lookup s.table i) else Option.none) =
      if t.tv = true then some (lookup t.table i) else Option.none := by
    rw [← h.tv]; exact ite_congr rfl (fun e => by rw [h.table e]) fun _ => rfl
  simp only [specifiedRead, hstatus, hresult, hacc, hpoly, htable]

/-- Writing the same accumulator and entering FOLDING keeps agreement. -/
theorem Agree.writeAcc_folding {a b : Word} (hab : a = b) :
    Agree ((s.writeAcc a).enter .folding) ((t.writeAcc b).enter .folding) :=
  ⟨h.tv, rfl, h.f, h.cause, h.buf, h.table, h.poly, fun _ => hab, nofun⟩

/-- A command that completes reads specified registers only: where it reads ACC the phase is not IDLE, and where it reads
TABLE `TV` is 1 (R33, R112). -/
theorem Agree.completed (i : Instr) (hc : firstFault i s = .none) : Agree (completed i s) (completed i t) := by
  obtain ⟨hl, ht, -⟩ := (firstFault_eq_none_iff i s).1 hc
  have hacc (hi : legalIn i .idle = false) : s.acc = t.acc := h.acc fun e => by simp [e, hi] at hl
  have htable (hi : needsTable i = true) : s.table = t.table := h.table (ht hi)
  cases i with
  | nop => exact h
  | tgen p => exact ⟨rfl, rfl, h.f, h.cause, h.buf, fun _ => rfl, fun _ => rfl, fun e => absurd rfl e, nofun⟩
  | init => exact ⟨h.tv, rfl, h.f, h.cause, h.buf, h.table, h.poly, fun _ => rfl, nofun⟩
  | fseed v => exact h.writeAcc_folding (by rw [hacc rfl, htable rfl])
  | foldb b => exact h.writeAcc_folding (by rw [hacc rfl, htable rfl])
  | foldm n => exact h.writeAcc_folding (by rw [hacc rfl, htable rfl, h.buf])
  | fin =>
    exact ⟨h.tv, rfl, h.f, h.cause, h.buf, h.table, h.poly, fun _ => hacc rfl,
      fun _ => congrArg (· ^^^ finalXor) (hacc rfl)⟩

/-- The same command ends in states that agree. -/
theorem Agree.exec {i : Instr} {s' t' : State} (hs : exec i s = .next s') (ht : exec i t = .next t') : Agree s' t' := by
  have hft : firstFault i s = firstFault i t := firstFault_congr i h.phase h.tv h.buf
  rcases exec_cases i s with ⟨hf, -⟩ | ⟨hf, hc, -⟩ | ⟨hf, hc, -⟩
  · rw [exec_of_faulted i hf] at hs
    rw [exec_of_faulted i (h.f ▸ hf)] at ht
    cases hs; cases ht; exact h
  · rw [exec_of_fault hf hc] at hs
    rw [exec_of_fault (h.f ▸ hf) (hft ▸ hc), ← hft] at ht
    cases hs; cases ht; exact h.raise _
  · rw [exec_of_noFault hf hc] at hs
    rw [exec_of_noFault (h.f ▸ hf) (hft ▸ hc)] at ht
    cases hs; cases ht; exact h.completed i hc

/-- The same command word ends in states that agree. -/
theorem Agree.presentWord {w : CommandWord} {s' t' : State} (hs : presentWord w s = .next s')
    (ht : presentWord w t = .next t') : Agree s' t' := by
  cases hf : s.f with
  | true =>
    rw [presentWord_of_faulted w hf] at hs
    rw [presentWord_of_faulted w (h.f ▸ hf)] at ht
    cases hs; cases ht; exact h
  | false =>
    have hf' : t.f = false := h.f ▸ hf
    cases hd : decode w with
    | error e =>
      rw [presentWord_of_illegal hf hd] at hs
      rw [presentWord_of_illegal hf' hd] at ht
      cases hs; cases ht; exact h.raise _
    | ok i =>
      rw [presentWord_of_ok hf hd] at hs
      rw [presentWord_of_ok hf' hd] at ht
      exact h.exec hs ht

/-- The same action of the host ends in states that agree (R33). -/
theorem Agree.perform {a : HostAction} {s' t' : State} (hs : perform a s = .next s') (ht : perform a t = .next t') :
    Agree s' t' := by
  cases a with
  | reset => cases hs; cases ht; exact h.resetEngine
  | command w => exact h.countCommand.presentWord hs ht
  | regRead n => cases hs; cases ht; exact h.readPort n
  | attach bytes => cases hs; cases ht; exact h.attachBuffer bytes

end

end Sys2Proof.Machine

/-! ## The obligations about the state -/

namespace Sys2Proof.Proofs

open Sys2Proof.Machine

/-! ### Presented words -/

/-- Settles O17, by induction on the commands: the first word runs its command, faulted or not, and no command reads or
writes the queue and `pc`. -/
theorem presentedCommandsRunInOrder : Obligations.PresentedCommandsRunInOrder := by
  intro is rest
  induction is with
  | nil =>
    intro s hp
    obtain rfl : s.port = rest := hp
    exact ⟨s, rfl, rfl⟩
  | cons i is ih =>
    intro s hp
    have hstep : step s = exec i (s.setPort (presented is rest)).countCommand := by
      rw [step_of_cons (hp.trans (presented_cons i is rest)), perform, presentWord_encode]
    obtain ⟨u, hu⟩ := exec_next i (s.setPort (presented is rest)).countCommand
    obtain ⟨-, huport, hupc, -, -⟩ := exec_host hu
    obtain ⟨t, hrun, hall⟩ := ih u huport
    have hexec := exec_setHost rest (s.pc + (is.length + 1)) hu
    have hpc : u.pc + is.length = s.pc + (is.length + 1) := by rw [hupc]; simp; omega
    rw [hpc] at hall
    refine ⟨t, ?_, ?_⟩
    · rw [List.length_cons, run_succ_of_step _ (hstep.trans hu), hrun]
    · exact (execAll_cons_of_exec is hexec).trans hall

/-! ### What a command leaves unchanged, and what it reads -/

/-- Settles O38, by what `exec` can do: discard the command, raise a fault, or complete it. -/
theorem commandFrame : Obligations.CommandFrame := by
  intro i s t h
  obtain ⟨hbuf, hport, hpc, hread, hdraws⟩ := exec_host h
  refine ⟨⟨by rw [hbuf], fun a _ _ => by simp only [memRead, hbuf]⟩, ⟨hport, hpc, hread, hdraws⟩, ?_⟩
  rcases exec_cases i s with ⟨hf, he⟩ | ⟨hf, hc, he⟩ | ⟨hf, hc, he⟩ <;> rw [he] at h <;> cases h
  · simp
  · have hnop : i ≠ .nop := fun e => by subst e; exact hc rfl
    simp [hf, hnop]
  · refine ⟨fun hi => completed_table_of_ne_tgen hi s, fun hi => completed_acc_of_nop_tgen_fin hi s,
      fun hi => completed_result_of_ne_fin hi s, fun _ => completed_cause i s, ?_, ?_, ?_⟩
    · simp [hf]
    · simp [hf]
    · rintro rfl; rfl

/-- Settles O39: the checks read neither register, and the effect of each command is the same with other values there. -/
theorem noCommandReadsPolyOrResult : Obligations.NoCommandReadsPolyOrResult := by
  intro i s t p r h
  have hft : firstFault i { s with poly := p, result := r } = firstFault i s := firstFault_congr i rfl rfl rfl
  rcases exec_cases i s with ⟨hf, he⟩ | ⟨hf, hc, he⟩ | ⟨hf, hc, he⟩ <;> rw [he] at h <;> cases h
  · refine ⟨_, exec_of_faulted i hf, rfl, rfl, rfl, rfl, rfl, rfl, ?_⟩
    simp [hf]
  · have hfin : ¬ (i = .fin ∧ s.f = false ∧ (s.phase = .inited ∨ s.phase = .folding)) := by
      rintro ⟨rfl, -, hp⟩; exact hc ((firstFault_fin_iff s).2 hp)
    refine ⟨_, exec_of_fault hf (hft ▸ hc), rfl, rfl, rfl, rfl, rfl, hft, ?_, ?_, fun _ => rfl⟩
    · rw [if_neg hfin]; rfl
    · rintro q rfl; exact absurd (firstFault_tgen q s) hc
  · refine ⟨_, exec_of_noFault hf (hft.trans hc), ?_⟩
    cases i with
    | tgen q => exact ⟨rfl, rfl, rfl, rfl, rfl, rfl, rfl, fun _ _ _ => rfl, by simp [hf]⟩
    | fin =>
      have hp := (firstFault_fin_iff s).1 hc
      exact ⟨rfl, rfl, rfl, rfl, rfl, rfl, by rw [if_pos ⟨rfl, hf, hp⟩]; rfl, nofun, fun _ => rfl⟩
    | _ => exact ⟨rfl, rfl, rfl, rfl, rfl, rfl, rfl, nofun, fun _ => rfl⟩

/-- Settles O41: one action of the host keeps agreement, and what a read returns is a specified value of both states. -/
theorem unspecifiedValuesNeverLeak : Obligations.UnspecifiedValuesNeverLeak := by
  intro s t s' t' h hport hs ht
  cases hp : s.port with
  | nil =>
    rw [step_of_empty hp] at hs
    rw [step_of_empty (hport ▸ hp)] at ht
    cases hs; cases ht
    exact ⟨h, fun n rest v e => by cases e⟩
  | cons a rest =>
    rw [step_of_cons hp] at hs
    rw [step_of_cons (hport ▸ hp)] at ht
    refine ⟨(h.setPort rest rest).perform hs ht, ?_⟩
    rintro n rest' v hread hv
    cases hread
    cases hs; cases ht
    exact ⟨readData_readPort hv, readData_readPort ((h.specifiedRead_eq n).symm.trans hv)⟩

/-! ### The read port and STATUS -/

/-- Settles O44: a read returns the specified value where there is one, and each row of rule R32 is specified under its
condition. -/
theorem readPortTable : Obligations.ReadPortTable := by
  intro s n rest hp
  obtain ⟨v, ht, hv⟩ := readPort_returns n (s.setPort rest)
  simp only [specifiedRead_setPort] at hv
  refine ⟨_, v, step_of_cons hp, ht, ?_, ?_, ?_, ?_, ?_⟩
  · rintro rfl; exact hv _ (specifiedRead_status s)
  · rintro rfl hd; exact hv _ (specifiedRead_result hd)
  · rintro rfl hd; exact hv _ (specifiedRead_acc (by rcases hd with e | e | e <;> simp [e]))
  · rintro rfl htv; exact hv _ (specifiedRead_poly htv)
  · intro i hn htv; exact hv _ (specifiedRead_table hn htv)

/-- Settles O45: a condition of rule R32 comes to hold only when its command completes. -/
theorem specifiedOnlyByItsWriter : Obligations.SpecifiedOnlyByItsWriter := by
  intro s t n v h hs ht
  have hunspec : ¬ (specifiedRead n s).isSome = true := by simp [hs]
  have hspec : (specifiedRead n t).isSome = true := by simp [ht]
  rw [specifiedRead_isSome_iff] at hunspec hspec
  push Not at hunspec
  obtain ⟨h0, h1, h2, h3⟩ := hunspec
  rcases hspec with hn | ⟨hn, hd⟩ | ⟨hn, hd⟩ | ⟨hn, htv⟩
  · exact absurd hn h0
  · obtain ⟨w, rest, hp, hw⟩ := fin_of_step_enters_done h (h1 hn) hd
    exact ⟨w, rest, _, hp, hw, .inl ⟨hn, rfl⟩⟩
  · obtain ⟨w, rest, hp, hw⟩ := init_of_step_leaves_idle h (h2 hn) hd
    exact ⟨w, rest, _, hp, hw, .inr (.inl ⟨hn, rfl⟩)⟩
  · obtain ⟨w, rest, p, hp, hw⟩ := tgen_of_step_sets_tv h (by simpa using h3 hn) htv
    exact ⟨w, rest, _, hp, hw, .inr (.inr ⟨hn, p, rfl⟩)⟩

/-- Settles O46: the fields by their weights in STATUS; a step that is neither a command nor a reset changes no engine
state. -/
theorem statusLayout : Obligations.StatusLayout := by
  intro s
  obtain ⟨htv, hphase, hf, hcause, hreserved⟩ := statusWord_fields s
  refine ⟨htv, hphase, hf, hcause, hreserved, ?_, ?_, rfl, rfl, ?_⟩
  · rw [hcause]; exact toNat_causeCode_le s.cause
  · simpa [faultOutput] using congrArg (·.getLsbD 0) hf
  · intro t h hcmd hreset
    rcases step_engine_cases h with
      ⟨rest, hp, -⟩ | ⟨w, rest, i, hp, -⟩ | ⟨w, rest, c, hp, -⟩ | he
    · exact absurd hp (hreset rest)
    · exact absurd hp (hcmd w rest)
    · exact absurd hp (hcmd w rest)
    · exact statusWord_congr he.tv.symm he.phase.symm he.f.symm he.cause.symm

/-! ### TV -/

/-- Settles O49: of all that a step can do only a TGEN that completes sets `TV` and only a reset clears it; and TGEN raises
no fault of its own. -/
theorem tableValidSetByTgenClearedByReset : Obligations.TableValidSetByTgenClearedByReset := by
  intro s t h
  refine ⟨tgen_of_step_sets_tv h, reset_of_step_clears_tv h, ?_, ?_⟩
  · intro w rest p hp hf hd
    rw [step_of_command hf hp hd, exec_of_noFault (by simpa using hf) (firstFault_tgen p _)] at h
    cases h; rfl
  · intro rest hp
    rw [step_of_cons hp] at h
    cases h; rfl

/-! ### The reset state -/

/-- Settles O42: with no table and in IDLE nothing but STATUS is specified. -/
theorem resetStateShowsStatusOnly : Obligations.ResetStateShowsStatusOnly :=
  ⟨rfl, rfl, rfl, rfl, fun n => specifiedRead_of_idle_of_noTable n rfl rfl⟩

/-- Settles O47: `F` and `CAUSE` are clear, and the condition of every other clause is false after reset. -/
theorem invariantAtReset : Obligations.InvariantAtReset where
  cause_none_iff := ⟨fun _ => rfl, fun _ => rfl⟩
  table_of_poly := nofun
  acc_of_inited := nofun
  tv_of_folding := nofun
  result_of_done := nofun

end Sys2Proof.Proofs

/-! ## The buffer -/

namespace Sys2Proof.Proofs

open Sys2Proof.Machine

/-- Settles O20: the waiting action is taken from the queue, and performing it writes the buffer alone. -/
theorem attachChangesTheBufferOnly : Obligations.AttachChangesTheBufferOnly := by
  intro s bytes rest hport
  calc step s
      = perform (.attach bytes) (s.setPort rest) := step_of_cons hport
    _ = .next ((s.setPort rest).attachBuffer bytes) := rfl
    _ = .next { s with port := rest, buf := bytes } := rfl

end Sys2Proof.Proofs

/-! ## The encoding -/

namespace Sys2Proof.Machine

/-! ### Words and their fields -/

theorem formatC_eq_iff {op : BitVec 8} {imm : Word} {w : CommandWord} :
    formatC op imm = w ↔ opField w = op ∧ immField w = imm := by
  conv_lhs => rw [← formatC_fields w, formatC_inj]
  exact and_congr eq_comm eq_comm

theorem opField_and (w v : CommandWord) : opField (w &&& v) = opField w &&& opField v :=
  BitVec.extractLsb'_and

theorem immField_and (w v : CommandWord) : immField (w &&& v) = immField w &&& immField v :=
  BitVec.extractLsb'_and

/-- A field of the operand field is the same field of the word (R61). -/
theorem extract_immField (w : CommandWord) {start len : Nat} (h : start + len ≤ 32) :
    (immField w).extractLsb' start len = w.extractLsb' start len := by
  ext i hi
  have : start + i < 32 := by omega
  simp [immField, BitVec.getLsbD_eq_getElem, this]

/-! ### Decoding is the inverse of encoding -/

theorem withoutOperand_eq_ok_iff {i j : Instr} {imm : Word} :
    withoutOperand i imm = .ok j ↔ imm = 0 ∧ i = j := by
  unfold withoutOperand
  split <;> simp_all

theorem withByteOperand_eq_ok_iff {f : Byte → Instr} {j : Instr} {imm : Word} :
    withByteOperand f imm = .ok j ↔ imm.extractLsb' 8 24 = 0 ∧ f (imm.extractLsb' 0 8) = j := by
  unfold withByteOperand
  split <;> simp_all

theorem encode_of_decode {w : CommandWord} {i : Instr} (h : decode w = .ok i) : encode i = w := by
  rcases decode_cases w with ⟨hop, hd⟩ | ⟨hop, hd⟩ | ⟨hop, hd⟩ | ⟨hop, hd⟩ | ⟨hop, hd⟩ | ⟨hop, hd⟩ | ⟨hop, hd⟩ |
    ⟨-, hd⟩ <;> rw [hd] at h
  · obtain ⟨himm, rfl⟩ := withoutOperand_eq_ok_iff.1 h
    exact formatC_eq_iff.2 ⟨hop, himm⟩
  · cases h
    exact formatC_eq_iff.2 ⟨hop, rfl⟩
  · obtain ⟨himm, rfl⟩ := withoutOperand_eq_ok_iff.1 h
    exact formatC_eq_iff.2 ⟨hop, himm⟩
  · cases h
    exact formatC_eq_iff.2 ⟨hop, rfl⟩
  · obtain ⟨hres, rfl⟩ := withByteOperand_eq_ok_iff.1 h
    exact formatC_eq_iff.2 ⟨hop, by rw [← hres, byteImm_fields]⟩
  · cases h
    exact formatC_eq_iff.2 ⟨hop, rfl⟩
  · obtain ⟨himm, rfl⟩ := withoutOperand_eq_ok_iff.1 h
    exact formatC_eq_iff.2 ⟨hop, himm⟩
  · cases h

/-- Decoding and encoding are inverse to each other. -/
theorem decode_eq_ok_iff {w : CommandWord} {i : Instr} : decode w = .ok i ↔ encode i = w :=
  ⟨encode_of_decode, fun h => h ▸ decode_encode i⟩

theorem decode_eq_ok_iff_fields {w : CommandWord} {i : Instr} {op : BitVec 8} {imm : Word}
    (henc : encode i = formatC op imm) : decode w = .ok i ↔ opField w = op ∧ immField w = imm := by
  rw [decode_eq_ok_iff, henc, formatC_eq_iff]

/-! ### The rows of the opcode map -/

theorem and_eq_formatC_iff {w m : CommandWord} {op : BitVec 8} {imm : Word} :
    w &&& m = formatC op imm ↔ opField w &&& opField m = op ∧ immField w &&& immField m = imm := by
  rw [eq_comm, formatC_eq_iff, opField_and, immField_and]

/-- The row of a command without operand compares every bit. -/
theorem decode_iff_selects_word {w : CommandWord} {i : Instr} :
    decode w = .ok i ↔ w &&& 0xFFFFFFFFFF = encode i := by
  have hones : (0xFFFFFFFFFF : CommandWord) = BitVec.allOnes 40 := by decide
  rw [decode_eq_ok_iff, hones, BitVec.and_allOnes, eq_comm]

/-- The row of a command with a whole-word operand compares the opcode alone. -/
theorem decode_iff_selects_opcode {w : CommandWord} {i : Instr} (op : BitVec 8) {imm : Word}
    (henc : encode i = formatC op imm) :
    decode w = .ok i ↔ w &&& 0xFF00000000 = formatC op 0 ∧ imm = w.extractLsb' 0 32 := by
  have hop : opField 0xFF00000000 = BitVec.allOnes 8 := by decide
  have himm : immField 0xFF00000000 = 0 := by decide
  rw [decode_eq_ok_iff_fields henc, and_eq_formatC_iff, hop, himm, BitVec.and_allOnes]
  simp only [BitVec.ofNat_eq_ofNat, BitVec.and_zero, and_true, immField, eq_comm]

/-- FOLDB's row compares the opcode and the reserved operand bits. -/
theorem decode_iff_selects_foldb {w : CommandWord} {b : Byte} :
    decode w = .ok (.foldb b) ↔ w &&& 0xFFFFFFFF00 = formatC 0x04 0 ∧ b = w.extractLsb' 0 8 := by
  have hop : opField 0xFFFFFFFF00 = BitVec.allOnes 8 := by decide
  have himm : immField 0xFFFFFFFF00 = byteImm (BitVec.allOnes 24) 0 := by decide
  have hzero : (0 : Word) = byteImm 0 0 := by decide
  rw [decode_eq_ok_iff_fields (imm := byteImm 0 b) rfl, and_eq_formatC_iff, hop, himm, BitVec.and_allOnes,
    ← byteImm_fields (immField w), byteImm_and, hzero, byteImm_inj, byteImm_inj, BitVec.and_allOnes]
  simp [extract_immField, and_assoc, eq_comm]

/-- Every row compares the whole opcode, so a word that selects it has its opcode. -/
theorem opField_of_selects {r : OpcodeRow} (hr : r ∈ opcodeMap) {w : CommandWord} (h : r.selects w = true) :
    opField w = opField r.pattern := by
  have hmask : ∀ r ∈ opcodeMap, opField r.mask = BitVec.allOnes 8 := by decide
  rw [OpcodeRow.selects, beq_iff_eq] at h
  rw [← h, opField_and, hmask r hr, BitVec.and_allOnes]

theorem row_ext_of_opField {r r' : OpcodeRow} (hr : r ∈ opcodeMap) (hr' : r' ∈ opcodeMap)
    (h : opField r.pattern = opField r'.pattern) : r = r' := by
  have hrows : ∀ r ∈ opcodeMap, ∀ r' ∈ opcodeMap, opField r.pattern = opField r'.pattern → r = r' := by decide
  exact hrows r hr r' hr' h

theorem wordWellFormed_encode (i : Instr) : wordWellFormed (encode i) = true := by
  cases i with
  | nop => exact Laws.Encoding.nop
  | tgen poly => exact Laws.Encoding.tgen poly
  | init => exact Laws.Encoding.init
  | fseed seed => exact Laws.Encoding.fseed seed
  | foldb byte => exact Laws.Encoding.foldb byte
  | foldm size => exact Laws.Encoding.foldm size
  | fin => exact Laws.Encoding.fin

/-- Each row of the opcode map is the row of a command. -/
theorem exists_decode_of_selects {r : OpcodeRow} (hr : r ∈ opcodeMap) {w : CommandWord} (h : r.selects w = true) :
    ∃ i, decode w = .ok i := by
  rw [OpcodeRow.selects, beq_iff_eq] at h
  simp only [opcodeMap, List.mem_cons, List.not_mem_nil, or_false] at hr
  rcases hr with rfl | rfl | rfl | rfl | rfl | rfl | rfl
  · exact ⟨.nop, decode_iff_selects_word.2 h⟩
  · exact ⟨.tgen _, (decode_iff_selects_opcode 0x01 rfl).2 ⟨h, rfl⟩⟩
  · exact ⟨.init, decode_iff_selects_word.2 h⟩
  · exact ⟨.fseed _, (decode_iff_selects_opcode 0x03 rfl).2 ⟨h, rfl⟩⟩
  · exact ⟨.foldb _, decode_iff_selects_foldb.2 ⟨h, rfl⟩⟩
  · exact ⟨.foldm _, (decode_iff_selects_opcode 0x05 rfl).2 ⟨h, rfl⟩⟩
  · exact ⟨.fin, decode_iff_selects_word.2 h⟩

/-- The decoder accepts exactly the words that select a row of the map. -/
theorem wordWellFormed_iff {w : CommandWord} : wordWellFormed w = true ↔ ∃ i, decode w = .ok i := by
  constructor
  · intro h
    obtain ⟨r, hr, hsel⟩ := List.any_eq_true.1 h
    exact exists_decode_of_selects hr hsel
  · rintro ⟨i, hi⟩
    rw [← encode_of_decode hi]
    exact wordWellFormed_encode i

/-! ### Illegal words -/

theorem exists_decode_error_iff {w : CommandWord} : (∃ e, decode w = .error e) ↔ wordWellFormed w = false := by
  rw [← Bool.not_eq_true, wordWellFormed_iff]
  cases decode w <;> simp

theorem exists_withoutOperand_eq_error_iff {i : Instr} {imm : Word} :
    (∃ e, withoutOperand i imm = .error e) ↔ imm ≠ 0 := by
  unfold withoutOperand
  split <;> simp_all

theorem exists_withByteOperand_eq_error_iff {f : Byte → Instr} {imm : Word} :
    (∃ e, withByteOperand f imm = .error e) ↔ imm.extractLsb' 8 24 ≠ 0 := by
  unfold withByteOperand
  split <;> simp_all

/-- R65 (a), (b), (c). -/
theorem exists_decode_error_iff_fields {w : CommandWord} : (∃ e, decode w = .error e) ↔
    7 ≤ (opField w).toNat ∨
    ((opField w = 0x00 ∨ opField w = 0x02 ∨ opField w = 0x06) ∧ immField w ≠ 0) ∨
    (opField w = 0x04 ∧ (immField w).extractLsb' 8 24 ≠ 0) := by
  rcases decode_cases w with ⟨hop, hd⟩ | ⟨hop, hd⟩ | ⟨hop, hd⟩ | ⟨hop, hd⟩ | ⟨hop, hd⟩ | ⟨hop, hd⟩ | ⟨hop, hd⟩ |
    ⟨hop, hd⟩ <;> rw [hd]
  · rw [exists_withoutOperand_eq_error_iff]; simp [hop]
  · simp [hop]
  · rw [exists_withoutOperand_eq_error_iff]; simp [hop]
  · simp [hop]
  · rw [exists_withByteOperand_eq_error_iff]; simp [hop]
  · simp [hop]
  · rw [exists_withoutOperand_eq_error_iff]; simp [hop]
  · exact iff_of_true ⟨_, rfl⟩ (.inl hop)

end Sys2Proof.Machine

/-! ## The assembler -/

namespace Sys2Proof.Machine

/-! ### Tokens -/

/-- A character that belongs to the token in which it stands. -/
def tokenChar (c : Char) : Prop := c ≠ ' ' ∧ c ≠ '\t' ∧ c ≠ ',' ∧ c ≠ ';'

theorem flushToken_of_ne_nil {cs : List Char} (h : cs ≠ []) : flushToken cs = [cs] := by
  cases cs with
  | nil => exact absurd rfl h
  | cons c cs => rfl

theorem tokens_space (cs cur : List Char) : tokens (' ' :: cs) cur = flushToken cur ++ tokens cs [] := by
  simp [tokens]

/-- Token characters are added to the token that is being read. -/
theorem tokens_append {word : List Char} (hword : ∀ c ∈ word, tokenChar c) (rest cur : List Char) :
    tokens (word ++ rest) cur = tokens rest (cur ++ word) := by
  induction word generalizing cur with
  | nil => simp
  | cons c cs ih =>
    obtain ⟨⟨hspace, htab, hcomma, hsemi⟩, hcs⟩ := List.forall_mem_cons.1 hword
    simp [tokens, hspace, htab, hcomma, hsemi, ih hcs]

theorem tokens_word {word : List Char} (hword : ∀ c ∈ word, tokenChar c) (hne : word ≠ []) :
    tokens word [] = [word] := by
  calc tokens word []
      = tokens (word ++ []) [] := by rw [List.append_nil]
    _ = tokens [] word := tokens_append hword [] []
    _ = [word] := flushToken_of_ne_nil hne

/-- A space separates two tokens. -/
theorem tokens_two_words {m a : List Char} (hm : m ≠ []) (ha : a ≠ []) (hchars : ∀ c ∈ m ++ a, tokenChar c) :
    tokens (m ++ ' ' :: a) [] = [m, a] := by
  obtain ⟨hmc, hac⟩ := List.forall_mem_append.1 hchars
  calc tokens (m ++ ' ' :: a) []
      = tokens (' ' :: a) m := tokens_append hmc _ []
    _ = flushToken m ++ tokens a [] := tokens_space a m
    _ = [m, a] := by rw [flushToken_of_ne_nil hm, tokens_word hac ha]; rfl

/-! ### Operands -/

theorem readOperand_of_readNumber {n : Nat} {cs : List Char} (width : Nat) (h : readNumber cs = some n) :
    readOperand width cs = if n < 2 ^ width then .ok (BitVec.ofNat width n) else .error .operandTooWide := by
  simp only [readOperand, h]

theorem oneOperand_of_readNumber {width n : Nat} {cs : List Char} (f : BitVec width → Instr)
    (h : readNumber cs = some n) :
    oneOperand f cs = if n < 2 ^ width then .ok [f (BitVec.ofNat width n)] else .error .operandTooWide := by
  rw [oneOperand, readOperand_of_readNumber width h]
  by_cases hn : n < 2 ^ width <;> simp [hn]

theorem readCompute_of_readNumber {a b c : List Char} {poly size seed : Nat} (ha : readNumber a = some poly)
    (hb : readNumber b = some size) (hc : readNumber c = some seed) :
    readCompute a b c = if poly < 2 ^ 32 ∧ size < 2 ^ 32 ∧ seed < 2 ^ 32 then
      .ok (computeSequence (BitVec.ofNat 32 poly) (BitVec.ofNat 32 size) (BitVec.ofNat 32 seed))
      else .error .operandTooWide := by
  rw [readCompute, readOperand_of_readNumber 32 ha, readOperand_of_readNumber 32 hb, readOperand_of_readNumber 32 hc]
  by_cases hp : poly < 2 ^ 32
  case neg => simp only [hp, if_false, false_and]
  by_cases hn : size < 2 ^ 32
  case neg => simp only [hp, hn, if_true, if_false, false_and, and_false]
  by_cases hs : seed < 2 ^ 32
  case neg => simp only [hp, hn, hs, if_true, if_false, and_false]
  simp only [hp, hn, hs, if_true, and_true]

/-! ### Lines -/

section

variable {line a b c : List Char}

theorem assembleLine_nop (h : tokens line [] = [['N', 'O', 'P']]) :
    assembleLine line = .ok [.nop] := by
  simp only [assembleLine, h]

theorem assembleLine_tgen (h : tokens line [] = [['T', 'G', 'E', 'N'], a]) :
    assembleLine line = oneOperand .tgen a := by
  simp only [assembleLine, h]

theorem assembleLine_init (h : tokens line [] = [['I', 'N', 'I', 'T']]) :
    assembleLine line = .ok [.init] := by
  simp only [assembleLine, h]

theorem assembleLine_fseed (h : tokens line [] = [['F', 'S', 'E', 'E', 'D'], a]) :
    assembleLine line = oneOperand .fseed a := by
  simp only [assembleLine, h]

theorem assembleLine_foldb (h : tokens line [] = [['F', 'O', 'L', 'D', 'B'], a]) :
    assembleLine line = oneOperand .foldb a := by
  simp only [assembleLine, h]

theorem assembleLine_foldm (h : tokens line [] = [['F', 'O', 'L', 'D', 'M'], a]) :
    assembleLine line = oneOperand .foldm a := by
  simp only [assembleLine, h]

theorem assembleLine_fin (h : tokens line [] = [['F', 'I', 'N']]) :
    assembleLine line = .ok [.fin] := by
  simp only [assembleLine, h]

theorem assembleLine_compute (h : tokens line [] = [['C', 'O', 'M', 'P', 'U', 'T', 'E'], a, [','], b, [','], c]) :
    assembleLine line = readCompute a b c := by
  simp only [assembleLine, h]

end

theorem assembleWords_of_ok {line : List Char} {is : List Instr} (h : assembleLine line = .ok is) :
    assembleWords line = .ok (is.map encode) := by
  rw [assembleWords, h]

theorem assembleWords_of_error {line : List Char} {e : AsmError} (h : assembleLine line = .error e) :
    assembleWords line = .error e := by
  rw [assembleWords, h]

theorem exists_of_assembleWords_ok {line : List Char} {ws : List CommandWord} (h : assembleWords line = .ok ws) :
    ∃ is, assembleLine line = .ok is ∧ ws = is.map encode := by
  cases hl : assembleLine line with
  | ok is =>
    rw [assembleWords_of_ok hl] at h
    cases h
    exact ⟨is, rfl, rfl⟩
  | error e =>
    rw [assembleWords_of_error hl] at h
    cases h

end Sys2Proof.Machine

/-! ## The obligations about the encoding -/

namespace Sys2Proof.Proofs

open Sys2Proof.Machine

/-- Settles O10: by command, `decode` reads the opcode and the operand that `encode` wrote. -/
theorem decodeOfEncode : Obligations.DecodeOfEncode :=
  fun i _ => decode_encode i

/-- Settles O11: by the opcode field, the word is put together again from its fields, reserved bits being 0. -/
theorem encodeOfDecode : Obligations.EncodeOfDecode :=
  fun _ _ => encode_of_decode

/-- Settles O12: decoding is the inverse of encoding, and a row compares what the encoder fixes; two rows that one word
selects have its opcode both. -/
theorem decodeSelectsItsRow : Obligations.DecodeSelectsItsRow := fun _ =>
  ⟨decode_iff_selects_word, fun _ => decode_iff_selects_opcode 0x01 rfl, decode_iff_selects_word,
    fun _ => decode_iff_selects_opcode 0x03 rfl, fun _ => decode_iff_selects_foldb,
    fun _ => decode_iff_selects_opcode 0x05 rfl, decode_iff_selects_word,
    fun _ hr _ hr' h h' => row_ext_of_opField hr hr' ((opField_of_selects hr h).symm.trans (opField_of_selects hr' h'))⟩

/-- Settles O13: by the opcode field for the three kinds, and by the map's rows for the words the decoder accepts. -/
theorem illegalWordsExactly : Obligations.IllegalWordsExactly := by
  intro w
  refine ⟨?_, ?_, ?_, ?_⟩
  · rw [exists_decode_error_iff_fields, extract_immField w (by decide)]
    rfl
  · simp [exists_decode_error_iff, wordWellFormed]
  · rintro s hf ⟨e, he⟩
    exact presentWord_of_illegal hf he
  · have hnop : encode .nop = 0 := by decide
    rw [decode_eq_ok_iff, hnop, eq_comm]

/-- Settles O14: each of the seven words is the one `encode` gives. -/
theorem sampleWordsDecode : Obligations.SampleWordsDecode :=
  ⟨decode_encode .nop, decode_encode (.tgen 0xEDB88320), decode_encode .init, decode_encode (.fseed 0x12345678),
    decode_encode (.foldb 0xFF), decode_encode (.foldm 4294967295), decode_encode .fin⟩

/-- Settles O15: the words of a line are those of its commands, and each operand is read by `readOperand` at the width of
its field; the tokens by induction on the characters of the first one. -/
theorem assemblerRefusesWhatDoesNotFit : Obligations.AssemblerRefusesWhatDoesNotFit := by
  refine ⟨?_, ?_, ?_, ?_, ?_, ?_⟩
  · intro line ws hws w hw
    obtain ⟨is, -, rfl⟩ := exists_of_assembleWords_ok hws
    obtain ⟨i, -, rfl⟩ := List.mem_map.1 hw
    exact ⟨wordWellFormed_encode i, i, decode_encode i⟩
  · exact fun width n cs h => readOperand_of_readNumber width h
  · exact fun m a => tokens_two_words
  · intro line a n hn
    refine ⟨fun h => ?_, fun h => ?_, fun h => ?_, fun h => ?_⟩
    · rw [assembleLine_foldb h, oneOperand_of_readNumber _ hn]
    · rw [assembleLine_tgen h, oneOperand_of_readNumber _ hn]
    · rw [assembleLine_fseed h, oneOperand_of_readNumber _ hn]
    · rw [assembleLine_foldm h, oneOperand_of_readNumber _ hn]
  · intro line a b c poly size seed h ha hb hc
    rw [assembleLine_compute h, readCompute_of_readNumber ha hb hc, computeSequence]
  · exact fun line => ⟨assembleLine_nop, assembleLine_init, assembleLine_fin, fun is => assembleWords_of_ok,
      fun e => assembleWords_of_error⟩

end Sys2Proof.Proofs

/-! ## The table entries -/

namespace Sys2Proof.Machine

/-! ### One shift/XOR step -/

theorem bitstep_of_odd {v : Word} (poly : Word) (h : v.getLsbD 0 = true) : bitstep poly v = poly ^^^ (v >>> 1) :=
  if_pos h

theorem bitstep_of_even {v : Word} (poly : Word) (h : v.getLsbD 0 = false) : bitstep poly v = v >>> 1 := by
  rw [bitstep, h]; rfl

/-- Rule R80, bit by bit. -/
theorem getLsbD_bitstep (poly v : Word) {k : Nat} (h : k < 32) :
    (bitstep poly v).getLsbD k = ((v.getLsbD 0 && poly.getLsbD k) ^^ (decide (k + 1 < 32) && v.getLsbD (k + 1))) := by
  have hshift : (v >>> 1).getLsbD k = (decide (k + 1 < 32) && v.getLsbD (k + 1)) := by
    by_cases hk : k + 1 < 32
    · simp [hk, Nat.add_comm]
    · simp [hk, BitVec.getLsbD_of_ge v (1 + k) (by omega)]
  cases hv : v.getLsbD 0 with
  | false => rw [bitstep_of_even poly hv, hshift, Bool.false_and, Bool.false_xor]
  | true => rw [bitstep_of_odd poly hv, BitVec.getLsbD_xor, hshift, Bool.true_and]

/-- The form of rule R80 without a test: the polynomial is masked by the low bit. -/
theorem bitstep_eq_shift_xor_masked (poly v : Word) :
    bitstep poly v = (v >>> 1) ^^^ (poly &&& (if v.getLsbD 0 then 0xFFFFFFFF else 0)) := by
  have hones : poly &&& 0xFFFFFFFF = poly := BitVec.and_allOnes
  cases hv : v.getLsbD 0 with
  | false => rw [bitstep_of_even poly hv]; simp
  | true => rw [bitstep_of_odd poly hv, if_pos rfl, hones, BitVec.xor_comm]

theorem bitstep_of_zero_poly (v : Word) : bitstep 0 v = v >>> 1 := by
  simp [bitstep]

/-- A step is XOR-linear in the value: each bit of it is the XOR of two bits of the value, one of them masked. -/
theorem bitstep_xor (poly v w : Word) : bitstep poly (v ^^^ w) = bitstep poly v ^^^ bitstep poly w := by
  refine BitVec.eq_of_getLsbD_eq fun k hk => ?_
  simp only [BitVec.getLsbD_xor, getLsbD_bitstep _ _ hk, Bool.and_xor_distrib_left, Bool.and_xor_distrib_right,
    Bool.xor_assoc, Bool.xor_left_comm]

/-! ### Eight steps -/

theorem bitsteps_succ (poly : Word) (n : Nat) (v : Word) :
    bitsteps poly (n + 1) v = bitstep poly (bitsteps poly n v) := rfl

theorem bitsteps_xor (poly : Word) (n : Nat) (v w : Word) :
    bitsteps poly n (v ^^^ w) = bitsteps poly n v ^^^ bitsteps poly n w := by
  induction n with
  | zero => rfl
  | succ n ih => rw [bitsteps_succ, ih, bitstep_xor]; rfl

theorem bitsteps_of_zero_poly (n : Nat) (v : Word) : bitsteps 0 n v = v >>> n := by
  induction n with
  | zero => simp [bitsteps]
  | succ n ih => rw [bitsteps_succ, ih, bitstep_of_zero_poly, BitVec.shiftRight_add]

/-! ### The entries -/

/-- Rule R85 (c). -/
theorem entry_xor (poly : Word) (i j : Byte) : entry poly (i ^^^ j) = entry poly i ^^^ entry poly j := by
  rw [entry, BitVec.setWidth_xor, bitsteps_xor]; rfl

/-- Rule R85 (a), which linearity gives. -/
theorem entry_zero (poly : Word) : entry poly 0 = 0 := by
  simpa using entry_xor poly 0 0

/-- Rule R85 (b): seven steps shift the one bit of the index to bit 0, and the eighth XORs the polynomial to 0. -/
theorem entry_0x80 (poly : Word) : entry poly 0x80 = poly := by
  have hseven : bitsteps poly 7 0x80 = 1 := by simp [bitsteps, bitstep_of_even]
  calc entry poly 0x80
      = bitstep poly (bitsteps poly 7 0x80) := rfl
    _ = bitstep poly 1 := by rw [hseven]
    _ = poly ^^^ (1 >>> 1) := bitstep_of_odd poly rfl
    _ = poly := BitVec.xor_zero

/-- Under polynomial 0 the eight bits of the index are shifted out. -/
theorem entry_of_zero_poly (i : Byte) : entry 0 i = 0 := by
  rw [entry, bitsteps_of_zero_poly]
  refine BitVec.eq_of_getLsbD_eq fun k hk => ?_
  simp

/-! ### The eight generators -/

/-- The index `i` with bits `n` and above cleared. -/
def lowBits (n : Nat) (i : Byte) : Byte := (i.setWidth n).setWidth 8

theorem getLsbD_lowBits (n : Nat) (i : Byte) {k : Nat} (h : k < 8) :
    (lowBits n i).getLsbD k = (decide (k < n) && i.getLsbD k) := by
  simp [lowBits, h]

theorem lowBits_zero (i : Byte) : lowBits 0 i = 0 := by
  simp [lowBits, BitVec.of_length_zero]

theorem lowBits_eight (i : Byte) : lowBits 8 i = i := by
  simp [lowBits]

/-- A single bit of an index, taken or left out. -/
theorem getLsbD_singleBit (b : Bool) {n k : Nat} (h : k < 8) :
    (if b then 1#8 <<< n else 0).getLsbD k = (b && decide (k = n)) := by
  cases b with
  | false => simp
  | true =>
    have hone : (1#8 <<< n).getLsbD k = (decide (n < 8) && decide (n = k)) := BitVec.getLsbD_twoPow n k
    rw [if_pos rfl, hone]
    by_cases hkn : k = n
    · subst hkn; simp [h]
    · simp [hkn, Ne.symm hkn]

theorem lowBits_succ (n : Nat) (i : Byte) :
    lowBits (n + 1) i = lowBits n i ^^^ (if i.getLsbD n then 1#8 <<< n else 0) := by
  refine BitVec.eq_of_getLsbD_eq fun k hk => ?_
  rw [BitVec.getLsbD_xor, getLsbD_lowBits _ _ hk, getLsbD_lowBits _ _ hk, getLsbD_singleBit _ hk]
  by_cases hkn : k = n
  · subst hkn; simp
  · have hlt : k < n + 1 ↔ k < n := by omega
    simp [hkn, hlt]

/-- The XOR of the entries of the single bits below `n` of an index is the entry of those bits. -/
theorem foldl_entry_generators (poly : Word) (i : Byte) (n : Nat) :
    (List.range n).foldl (fun x k => x ^^^ (if i.getLsbD k then entry poly (1#8 <<< k) else 0)) 0 =
      entry poly (lowBits n i) := by
  induction n with
  | zero => rw [lowBits_zero, entry_zero]; rfl
  | succ n ih =>
    have hbit : (if i.getLsbD n then entry poly (1#8 <<< n) else 0) =
        entry poly (if i.getLsbD n then 1#8 <<< n else 0) := by
      split
      · rfl
      · exact (entry_zero poly).symm
    rw [List.range_succ, List.foldl_append, ih, List.foldl_cons, List.foldl_nil, hbit, ← entry_xor, lowBits_succ]

/-! ### TGEN -/

/-- TGEN has no check of its own: while `F = 0` it completes from every phase (R83, R112). -/
theorem exec_tgen {s : State} (poly : Word) (h : s.f = false) : exec (.tgen poly) s = .next (buildTable poly s) :=
  exec_of_noFault h (firstFault_tgen poly s)

end Sys2Proof.Machine

/-! ## The invariant `State.Inv` -/

namespace Sys2Proof.Machine

theorem State.inv_resetEngine (s : State) : s.resetEngine.Inv where
  cause_none_iff := ⟨fun _ => rfl, fun _ => rfl⟩
  table_of_poly := nofun
  acc_of_inited := nofun
  tv_of_folding := nofun
  result_of_done := nofun

section
variable {s : State} (h : s.Inv)
include h

/-- The invariant is about the engine's state alone. -/
theorem State.Inv.of_sameEngine {t : State} (he : SameEngine s t) : t.Inv where
  cause_none_iff := he.cause ▸ he.f ▸ h.cause_none_iff
  table_of_poly := he.tv ▸ he.table ▸ he.poly ▸ h.table_of_poly
  acc_of_inited := he.phase ▸ he.acc ▸ h.acc_of_inited
  tv_of_folding := he.phase ▸ he.tv ▸ h.tv_of_folding
  result_of_done := he.phase ▸ he.result ▸ he.acc ▸ h.result_of_done

/-- A fault writes `F` and `CAUSE` together (R131). -/
theorem State.Inv.raise {c : Cause} (hc : c ≠ .none) : (s.raise c).Inv where
  cause_none_iff := ⟨fun e => absurd e hc, nofun⟩
  table_of_poly := h.table_of_poly
  acc_of_inited := h.acc_of_inited
  tv_of_folding := h.tv_of_folding
  result_of_done := h.result_of_done

/-- A fold command that passes the check of `TV` keeps the invariant, whatever it writes to the accumulator. -/
theorem State.Inv.writeAcc_folding (a : Word) (htv : s.tv = true) : ((s.writeAcc a).enter .folding).Inv where
  cause_none_iff := h.cause_none_iff
  table_of_poly := h.table_of_poly
  acc_of_inited := nofun
  tv_of_folding _ := htv
  result_of_done := nofun

/-- TGEN writes TABLE and POLY together and leaves every phase with a condition (R83, R84). -/
theorem State.Inv.buildTable (poly : Word) : (buildTable poly s).Inv where
  cause_none_iff := h.cause_none_iff
  table_of_poly _ := lookup_crcTable poly
  acc_of_inited := nofun
  tv_of_folding := nofun
  result_of_done := nofun

theorem State.Inv.initAcc : (initAcc s).Inv where
  cause_none_iff := h.cause_none_iff
  table_of_poly := h.table_of_poly
  acc_of_inited _ := rfl
  tv_of_folding := nofun
  result_of_done := nofun

/-- FIN writes RESULT from the accumulator and leaves that in place (R99). -/
theorem State.Inv.finish : (finish s).Inv where
  cause_none_iff := h.cause_none_iff
  table_of_poly := h.table_of_poly
  acc_of_inited := nofun
  tv_of_folding := nofun
  result_of_done _ := rfl

/-- Every command that completes keeps the invariant. -/
theorem State.Inv.completed {i : Instr} (hc : firstFault i s = .none) : (completed i s).Inv := by
  obtain ⟨-, htv, -⟩ := (firstFault_eq_none_iff i s).1 hc
  cases i with
  | nop => exact h
  | tgen poly => exact h.buildTable poly
  | init => exact h.initAcc
  | fseed seed => exact h.writeAcc_folding _ (htv rfl)
  | foldb byte => exact h.writeAcc_folding _ (htv rfl)
  | foldm size => exact h.writeAcc_folding _ (htv rfl)
  | fin => exact h.finish

/-- Every step keeps the invariant. -/
theorem State.Inv.step {t : State} (ht : step s = .next t) : t.Inv := by
  have hhost (rest : List HostAction) : (s.setPort rest).countCommand.Inv := h.of_sameEngine (sameEngine_host ..)
  rcases step_engine_cases ht with
    ⟨rest, -, rfl⟩ | ⟨w, rest, i, -, -, -, hc, rfl⟩ | ⟨w, rest, c, -, -, hc, rfl⟩ | he
  · exact State.inv_resetEngine _
  · have hfirst : firstFault i (s.setPort rest).countCommand = firstFault i s := firstFault_congr i rfl rfl rfl
    exact (hhost rest).completed (hfirst.trans hc)
  · exact (hhost rest).raise hc
  · exact h.of_sameEngine he

end

end Sys2Proof.Machine

/-! ## The obligations about the table and the invariant -/

namespace Sys2Proof.Proofs

open Sys2Proof.Machine

/-- Settles O48, by what a step can do to the engine: a reset, a command that completes, a fault, or nothing. -/
theorem stepKeepsTheInvariant : Obligations.StepKeepsTheInvariant :=
  fun _ _ h ht => h.step ht

/-- Settles O1, by the two branches of the step. -/
theorem bitstepBitByBit : Obligations.BitstepBitByBit :=
  fun poly v _ hk => getLsbD_bitstep poly v hk

/-- Settles O2: a step is linear, hence so are eight, and an index is the XOR of its single bits. -/
theorem entryLaws : Obligations.EntryLaws := by
  refine fun poly => ⟨entry_zero poly, entry_0x80 poly, entry_xor poly, bitstep_eq_shift_xor_masked poly, fun i => ?_,
    entry_of_zero_poly⟩
  rw [foldl_entry_generators, lowBits_eight]

/-- Settles O30: TGEN completes, and its table is `table(poly)`. -/
theorem tgenBuildsTheTable : Obligations.TgenBuildsTheTable :=
  fun s poly h => ⟨buildTable poly s, exec_tgen poly h, lookup_crcTable poly, rfl⟩

/-- Settles O31: the table that TGEN writes depends on the polynomial alone. -/
theorem tablesOfOnePolynomialAreEqual : Obligations.TablesOfOnePolynomialAreEqual :=
  fun s s' poly h h' => ⟨buildTable poly s, buildTable poly s', exec_tgen poly h, exec_tgen poly h', rfl,
    lookup_crcTable poly⟩

end Sys2Proof.Proofs

/-! ## The accumulator fold -/

namespace Sys2Proof.Machine

/-! ### One fold -/

/-- The fold's index (R90): the low byte of the accumulator XOR the byte. -/
theorem setWidth_xor_setWidth (acc : Word) (b : Byte) :
    (acc ^^^ b.setWidth 32).setWidth 8 = acc.extractLsb' 0 8 ^^^ b := by
  rw [BitVec.setWidth_xor, BitVec.setWidth_setWidth_of_le b (by omega), BitVec.setWidth_eq,
    BitVec.setWidth_eq_extractLsb' (by omega)]

/-- The shift of a fold is logical (R9): the upper 24 bits of the accumulator, below a zero byte. -/
theorem shiftRight_eight_eq_append (acc : Word) : acc >>> 8 = (0x00#8 ++ acc.extractLsb' 8 24 : BitVec 32) :=
  BitVec.ushiftRight_eq_extractLsb'_of_lt (n := 8) (by omega)

/-! ### A sequence of folds -/

/-- Rule R92: folding a concatenation is folding its parts in order. -/
theorem foldseq_append (T : Table) (acc : Word) (xs ys : List Byte) :
    foldseq T acc (xs ++ ys) = foldseq T (foldseq T acc xs) ys := by
  induction xs generalizing acc with
  | nil => rfl
  | cons x xs ih => exact ih (fold T acc x)

theorem seedStep_zero (T : Table) (acc : Word) : seedStep T 0 acc = acc := if_pos rfl

theorem seedStep_of_ne_zero {seed : Word} (T : Table) (acc : Word) (h : seed ≠ 0) :
    seedStep T seed acc = foldseq T acc (seedBytes seed) := if_neg h

/-- Rule R46: the seed bytes as bit slices, least significant first. -/
theorem seedBytes_eq_slices (seed : Word) : seedBytes seed =
    [seed.extractLsb' 0 8, seed.extractLsb' 8 8, seed.extractLsb' 16 8, seed.extractLsb' 24 8] := rfl

/-- Rule R95 for the checksum: a seed is its four bytes before the others. -/
theorem crc_eq_crc_seedBytes_append {seed : Word} (poly : Word) (bs : List Byte) (h : seed ≠ 0) :
    crc poly bs seed = crc poly (seedBytes seed ++ bs) 0 := by
  simp only [crc, seedStep_of_ne_zero _ _ h, seedStep_zero, foldseq_append]

/-! ### INIT and FIN -/

/-- INIT has no check of its own: while `F = 0` it completes from every phase (R93, R112). -/
theorem exec_init {s : State} (h : s.f = false) : exec .init s = .next (initAcc s) :=
  exec_of_noFault h rfl

theorem exec_fin {s : State} (h : s.f = false) (hp : s.phase = .inited ∨ s.phase = .folding) :
    exec .fin s = .next (finish s) :=
  exec_of_noFault h ((firstFault_fin_iff s).2 hp)

/-! ### The fold commands -/

theorem firstFault_fseed_iff (seed : Word) (s : State) :
    firstFault (.fseed seed) s = .none ↔ s.phase = .inited ∧ s.tv = true := by
  simp [firstFault_eq_none_iff, legalIn, needsTable, lengthOk]

theorem firstFault_foldb_iff (byte : Byte) (s : State) :
    firstFault (.foldb byte) s = .none ↔ (s.phase = .inited ∨ s.phase = .folding) ∧ s.tv = true := by
  simp [firstFault_eq_none_iff, legalIn, needsTable, lengthOk]

theorem firstFault_foldm_iff (size : Word) (s : State) : firstFault (.foldm size) s = .none ↔
    (s.phase = .inited ∨ s.phase = .folding) ∧ s.tv = true ∧ size.toNat ≤ s.buf.length := by
  simp [firstFault_eq_none_iff, legalIn, needsTable, lengthOk]

theorem exec_fseed {s : State} (seed : Word) (h : s.f = false) (hp : s.phase = .inited) (htv : s.tv = true) :
    exec (.fseed seed) s = .next ((s.writeAcc (seedStep s.table seed s.acc)).enter .folding) :=
  exec_of_noFault h ((firstFault_fseed_iff seed s).2 ⟨hp, htv⟩)

theorem exec_foldb {s : State} (byte : Byte) (h : s.f = false) (hp : s.phase = .inited ∨ s.phase = .folding)
    (htv : s.tv = true) : exec (.foldb byte) s = .next (foldByte byte s) :=
  exec_of_noFault h ((firstFault_foldb_iff byte s).2 ⟨hp, htv⟩)

theorem exec_foldm {s : State} {size : Word} (h : s.f = false) (hp : s.phase = .inited ∨ s.phase = .folding)
    (htv : s.tv = true) (hlen : size.toNat ≤ s.buf.length) : exec (.foldm size) s =
      .next ((s.writeAcc (foldseq s.table s.acc (s.buf.take size.toNat))).enter .folding) :=
  exec_of_noFault h ((firstFault_foldm_iff size s).2 ⟨hp, htv, hlen⟩)

/-- Rules R95 and R98: the FOLDB commands of at least one byte fold the bytes in order. Without the first byte the phase
would stay as it was, so the induction is on the bytes after it. -/
theorem execAll_foldb_cons {s : State} (b : Byte) (bs : List Byte) (h : s.f = false)
    (hp : s.phase = .inited ∨ s.phase = .folding) (htv : s.tv = true) : execAll ((b :: bs).map .foldb) s =
      .next ((s.writeAcc (foldseq s.table s.acc (b :: bs))).enter .folding) := by
  induction bs generalizing b s with
  | nil => exact execAll_cons_of_exec [] (exec_foldb b h hp htv)
  | cons c bs ih =>
    calc execAll ((b :: c :: bs).map .foldb) s
        = execAll ((c :: bs).map .foldb) (foldByte b s) := execAll_cons_of_exec _ (exec_foldb b h hp htv)
      _ = .next (((foldByte b s).writeAcc (foldseq s.table (fold s.table s.acc b) (c :: bs))).enter .folding) :=
        ih c h (.inr rfl) htv
      _ = .next ((s.writeAcc (foldseq s.table s.acc (b :: c :: bs))).enter .folding) := rfl

theorem execAll_foldb_of_ne_nil {s : State} {bs : List Byte} (hbs : bs ≠ []) (h : s.f = false)
    (hp : s.phase = .inited ∨ s.phase = .folding) (htv : s.tv = true) : execAll (bs.map .foldb) s =
      .next ((s.writeAcc (foldseq s.table s.acc bs)).enter .folding) := by
  obtain ⟨b, bs, rfl⟩ := List.exists_cons_of_ne_nil hbs
  exact execAll_foldb_cons b bs h hp htv

/-! ### FOLDM on two buffers with the same prefix -/

section
variable {s : State} {size : Word} {other : List Byte}

theorem firstFault_foldm_attachBuffer (hs : size.toNat ≤ s.buf.length) (ho : size.toNat ≤ other.length) :
    firstFault (.foldm size) (s.attachBuffer other) = firstFault (.foldm size) s := by
  simp [firstFault, lengthOk, hs, ho]

theorem completed_foldm_attachBuffer (h : s.buf.take size.toNat = other.take size.toNat) :
    completed (.foldm size) (s.attachBuffer other) = (completed (.foldm size) s).attachBuffer other := by
  simp only [completed, State.attachBuffer_buf, ← h]
  rfl

end

end Sys2Proof.Machine

/-! ## The obligations about the accumulator fold -/

namespace Sys2Proof.Proofs

open Sys2Proof.Machine

/-! ### The pure functions -/

/-- Settles O3: the index and the shifted accumulator, each by its fields. -/
theorem foldByFields : Obligations.FoldByFields := by
  intro T acc b
  rw [fold, setWidth_xor_setWidth, shiftRight_eight_eq_append]

/-- Settles O4, by induction on the first part. -/
theorem foldseqOfAppend : Obligations.FoldseqOfAppend := foldseq_append

/-- Settles O5: the loop from any index folds the bytes from there on; here the index is 0. -/
theorem foldLoopIsFoldseqOfPrefix : Obligations.FoldLoopIsFoldseqOfPrefix :=
  fun T buf n h acc => foldBuffer_eq_foldseq T buf n 0 h acc

/-- Settles O9: the seed step is the fold of the four seed bytes, which both the concatenation and the four FOLDB commands
do first. -/
theorem seedIsFourLeadingBytes : Obligations.SeedIsFourLeadingBytes := by
  refine ⟨fun poly seed bs h0 => crc_eq_crc_seedBytes_append poly bs h0, fun s seed h hp htv h0 => ?_⟩
  refine ⟨_, exec_fseed seed h hp htv, ?_⟩
  rw [seedStep_of_ne_zero _ _ h0]
  exact execAll_foldb_of_ne_nil (bs := seedBytes seed) (by simp [seedBytes]) h (.inl hp) htv

/-! ### The commands -/

/-- Settles O32: INIT passes every check. -/
theorem initSetsTheAccumulator : Obligations.InitSetsTheAccumulator := fun _ h => exec_init h

/-- Settles O33, by whether the seed step folds anything. -/
theorem fseedFoldsTheSeed : Obligations.FseedFoldsTheSeed := by
  refine fun s seed h hp htv => ⟨fun h0 => ?_, fun h0 => ?_⟩
  · rw [exec_fseed seed h hp htv, seedStep_of_ne_zero _ _ h0, seedBytes_eq_slices]
    rfl
  · subst h0
    rw [exec_fseed 0 h hp htv, seedStep_zero]
    rfl

/-- Settles O34: FOLDB passes its checks. -/
theorem foldbFoldsItsByte : Obligations.FoldbFoldsItsByte := fun _ byte h hp htv => exec_foldb byte h hp htv

/-- Settles O35: FOLDM passes its checks, and its loop is `foldseq` of the prefix. -/
theorem foldmFoldsThePrefix : Obligations.FoldmFoldsThePrefix := fun _ _ h hp htv hlen => exec_foldm h hp htv hlen

/-- Settles O36: FIN passes its checks without a table, and XOR with all ones is the complement. -/
theorem finDeliversTheComplement : Obligations.FinDeliversTheComplement :=
  fun _ h hp => ⟨exec_fin h hp, BitVec.xor_allOnes⟩

/-- Settles O37: the FOLDB commands of a prefix that is not empty fold it in order, as FOLDM does; a prefix of length 0 is
empty; and folding two prefixes is folding their concatenation. -/
theorem foldmIsItsFoldbs : Obligations.FoldmIsItsFoldbs := by
  refine ⟨fun s size h hp htv hlen h0 => ?_, fun s h hp htv => ?_, fun s x y m n h hp htv hm hn hmn => ?_⟩
  · have hsize : size.toNat ≠ 0 := fun e => h0 (BitVec.eq_of_toNat_eq e)
    have hne : s.buf.take size.toNat ≠ [] := List.ne_nil_of_length_pos (by simp; omega)
    exact ⟨_, exec_foldm h hp htv hlen, execAll_foldb_of_ne_nil hne h hp htv⟩
  · exact exec_foldm h hp htv (Nat.zero_le _)
  · have hsum : (m + n).toNat = m.toNat + n.toNat := BitVec.toNat_add_of_lt hmn
    have hlen : (x.take m.toNat ++ y.take n.toNat).length = (m + n).toNat := by simp [hsum, hm, hn]
    refine ⟨_, _, _, exec_foldm h hp htv hm, exec_foldm h (.inr rfl) htv hn, exec_foldm h hp htv hlen.ge, ?_, rfl⟩
    show foldseq s.table (foldseq s.table s.acc (x.take m.toNat)) (y.take n.toNat) =
      foldseq s.table s.acc ((x.take m.toNat ++ y.take n.toNat).take (m + n).toNat)
    rw [List.take_of_length_le hlen.le, foldseq_append]

/-! ### What FOLDM reads -/

/-- Settles O40, by what `exec` can do: the checks answer the same for both buffers, and the loop sees the prefix alone. -/
theorem foldmReadsThePrefixOnly : Obligations.FoldmReadsThePrefixOnly := by
  intro s size other hs ho htake
  have hft : firstFault (.foldm size) (s.attachBuffer other) = firstFault (.foldm size) s :=
    firstFault_foldm_attachBuffer hs ho
  rcases exec_cases (.foldm size) s with ⟨hf, he⟩ | ⟨hf, hc, he⟩ | ⟨hf, hc, he⟩ <;> refine ⟨_, he, ?_⟩
  · exact exec_of_faulted (s := s.attachBuffer other) (.foldm size) hf
  · rw [← hft]
    exact exec_of_fault (s := s.attachBuffer other) hf (hft ▸ hc)
  · exact (exec_of_noFault (s := s.attachBuffer other) hf (hft.trans hc)).trans
      (congrArg _ (completed_foldm_attachBuffer htake))

end Sys2Proof.Proofs

/-! ## Seeds and checksums

A table look-up does eight shift/XOR steps at once: folding a byte is XORing it into the accumulator and taking eight
steps (`fold_eq_bitsteps`), and the four seed bytes are XORed in as one word (`foldseq_seedBytes`). A step under a polynomial
whose bit 31 is 1 can be undone, and so can a fold. -/

namespace Sys2Proof.Machine

/-! ### Steps, eight at a time -/

theorem bitsteps_add (poly : Word) (m n : Nat) (v : Word) :
    bitsteps poly (m + n) v = bitsteps poly m (bitsteps poly n v) := by
  induction m with
  | zero => rw [Nat.zero_add]; rfl
  | succ m ih => rw [Nat.succ_add, bitsteps_succ, ih, bitsteps_succ]

/-- As long as 0 bits leave at the low end, the steps only shift. -/
theorem bitsteps_of_low_zeros (poly : Word) {n : Nat} {v : Word} (h : ∀ k < n, v.getLsbD k = false) :
    bitsteps poly n v = v >>> n := by
  induction n with
  | zero => simp [bitsteps]
  | succ n ih =>
    have hlow : (v >>> n).getLsbD 0 = false := by simpa using h n (by omega)
    rw [bitsteps_succ, ih fun k hk => h k (by omega), bitstep_of_even poly hlow, BitVec.shiftRight_add]

/-- A word is its low byte and the others. -/
theorem low_xor_high (v : Word) : (v.setWidth 8).setWidth 32 ^^^ ((v >>> 8) <<< 8) = v := by
  refine BitVec.eq_of_getLsbD_eq fun k hk => ?_
  by_cases h8 : k < 8
  · simp [h8, hk]
  · simp [h8, hk, show 8 + (k - 8) = k by omega]

/-- Eight steps are one table look-up (R81, R90): the low byte is the index, and the others are shifted. -/
theorem bitsteps_eight (poly v : Word) : bitsteps poly 8 v = entry poly (v.setWidth 8) ^^^ (v >>> 8) := by
  have hhigh : bitsteps poly 8 ((v >>> 8) <<< 8) = v >>> 8 := by
    rw [bitsteps_of_low_zeros poly fun k hk => by simp [hk]]
    refine BitVec.eq_of_getLsbD_eq fun k hk => ?_
    by_cases h : 8 + k < 32
    · simp [h]
    · simp [BitVec.getLsbD_of_ge v (8 + k) (by omega)]
  calc bitsteps poly 8 v
      = bitsteps poly 8 ((v.setWidth 8).setWidth 32 ^^^ ((v >>> 8) <<< 8)) := by rw [low_xor_high]
    _ = entry poly (v.setWidth 8) ^^^ (v >>> 8) := by rw [bitsteps_xor, hhigh]; rfl

/-- Eight steps fold the low byte of what has been XORed into the accumulator and leave the others for the next fold. -/
theorem bitsteps_eight_xor (poly acc v : Word) :
    bitsteps poly 8 (acc ^^^ v) = fold (crcTable poly) acc (v.setWidth 8) ^^^ (v >>> 8) := by
  have hidx : (acc ^^^ (v.setWidth 8).setWidth 32).setWidth 8 = (acc ^^^ v).setWidth 8 := by simp
  rw [bitsteps_eight, fold, lookup_crcTable, hidx, BitVec.ushiftRight_xor_distrib, BitVec.xor_assoc]

theorem fold_eq_bitsteps (poly acc : Word) (b : Byte) :
    fold (crcTable poly) acc b = bitsteps poly 8 (acc ^^^ b.setWidth 32) := by
  have hbyte : (b.setWidth 32).setWidth 8 = b := by simp
  have hshift : b.setWidth 32 >>> 8 = 0 := BitVec.eq_of_getLsbD_eq fun k _ => by simp
  rw [bitsteps_eight_xor, hbyte, hshift]
  exact BitVec.xor_zero.symm

/-- Folding the lowest `n` bytes of a word (R46) leaves of its steps what the other bytes still have to add. -/
theorem bitsteps_seedBytes (poly acc v : Word) (n : Nat) : bitsteps poly (8 * n) (acc ^^^ v) =
    foldseq (crcTable poly) acc ((List.range n).map (seedByte v)) ^^^ (v >>> (8 * n)) := by
  induction n with
  | zero => simp [bitsteps]
  | succ n ih =>
    rw [List.range_succ, List.map_append, foldseq_append]
    generalize foldseq (crcTable poly) acc ((List.range n).map (seedByte v)) = acc' at ih ⊢
    calc bitsteps poly (8 * (n + 1)) (acc ^^^ v)
        = bitsteps poly 8 (bitsteps poly (8 * n) (acc ^^^ v)) := by rw [Nat.mul_succ, Nat.add_comm, bitsteps_add]
      _ = fold (crcTable poly) acc' (seedByte v n) ^^^ (v >>> (8 * n) >>> 8) := by rw [ih, bitsteps_eight_xor]; rfl
      _ = foldseq (crcTable poly) acc' ([n].map (seedByte v)) ^^^ (v >>> (8 * (n + 1))) := by
        rw [← BitVec.shiftRight_add]; rfl

/-- The seed's four bytes folded, in closed form: 32 steps from the accumulator XOR the seed. -/
theorem foldseq_seedBytes (poly acc seed : Word) :
    foldseq (crcTable poly) acc (seedBytes seed) = bitsteps poly 32 (acc ^^^ seed) := by
  have hend : seed >>> (8 * 4) = 0 := BitVec.ushiftRight_eq_zero (by omega)
  have h := bitsteps_seedBytes poly acc seed 4
  rw [hend] at h
  exact (h.trans BitVec.xor_zero).symm

/-! ### Checksums -/

theorem crc_seed_zero (poly : Word) (bs : List Byte) :
    crc poly bs 0 = foldseq (crcTable poly) initialAcc bs ^^^ finalXor := by
  rw [crc, seedStep_zero]

theorem crc_of_seed_ne_zero {seed : Word} (poly : Word) (bs : List Byte) (h : seed ≠ 0) :
    crc poly bs seed = foldseq (crcTable poly) (bitsteps poly 32 (initialAcc ^^^ seed)) bs ^^^ finalXor := by
  rw [crc, seedStep_of_ne_zero _ _ h, foldseq_seedBytes]

/-- FIN's inversion undoes itself (R99). -/
theorem xor_finalXor_xor_finalXor (acc : Word) : acc ^^^ finalXor ^^^ finalXor = acc := by
  rw [BitVec.xor_assoc, BitVec.xor_self, BitVec.xor_zero]

/-! ### Polynomial 0 -/

theorem fold_of_zero_poly (acc : Word) (b : Byte) : fold (crcTable 0) acc b = acc >>> 8 := by
  rw [fold, lookup_crcTable, entry_of_zero_poly]
  exact BitVec.zero_xor

theorem foldseq_of_zero_poly (acc : Word) (bs : List Byte) : foldseq (crcTable 0) acc bs = acc >>> (8 * bs.length) := by
  induction bs generalizing acc with
  | nil => simp
  | cons b bs ih =>
    rw [foldseq_cons, fold_of_zero_poly, ih, ← BitVec.shiftRight_add, List.length_cons, Nat.mul_succ, Nat.add_comm]

/-! ### Polynomials with bit 31 -/

section
variable {poly : Word}

/-- Bit 31 of a step's value tells which branch was taken, and the other bits what was shifted. -/
theorem bitstep_injective (hpoly : poly.getLsbD 31 = true) : Function.Injective (bitstep poly) := by
  intro v w h
  have hbit (k : Nat) (hk : k < 32) : ((v.getLsbD 0 && poly.getLsbD k) ^^ (decide (k + 1 < 32) && v.getLsbD (k + 1))) =
      ((w.getLsbD 0 && poly.getLsbD k) ^^ (decide (k + 1 < 32) && w.getLsbD (k + 1))) := by
    rw [← getLsbD_bitstep poly v hk, ← getLsbD_bitstep poly w hk, h]
  have hlow : v.getLsbD 0 = w.getLsbD 0 := by
    have h31 := hbit 31 (by omega)
    rw [hpoly] at h31
    simpa using h31
  refine BitVec.eq_of_getLsbD_eq fun k hk => ?_
  cases k with
  | zero => exact hlow
  | succ k =>
    have hnext := hbit k (by omega)
    rw [hlow, decide_eq_true hk] at hnext
    simpa using hnext

theorem bitsteps_injective (hpoly : poly.getLsbD 31 = true) (n : Nat) : Function.Injective (bitsteps poly n) := by
  induction n with
  | zero => exact Function.injective_id
  | succ n ih => exact (bitstep_injective hpoly).comp ih

theorem fold_injective (hpoly : poly.getLsbD 31 = true) (b : Byte) :
    Function.Injective fun acc => fold (crcTable poly) acc b := by
  intro acc acc' h
  simp only [fold_eq_bitsteps] at h
  exact (BitVec.xor_left_inj _).1 (bitsteps_injective hpoly 8 h)

theorem foldseq_injective (hpoly : poly.getLsbD 31 = true) (bs : List Byte) :
    Function.Injective fun acc => foldseq (crcTable poly) acc bs := by
  induction bs with
  | nil => exact Function.injective_id
  | cons b bs ih => exact ih.comp (fold_injective hpoly b)

/-- Two non-zero seeds that give the same checksum of one byte sequence are the same. -/
theorem seed_eq_of_crc_eq (hpoly : poly.getLsbD 31 = true) {bs : List Byte} {a b : Word} (ha : a ≠ 0) (hb : b ≠ 0)
    (h : crc poly bs a = crc poly bs b) : a = b := by
  rw [crc_of_seed_ne_zero poly bs ha, crc_of_seed_ne_zero poly bs hb, BitVec.xor_left_inj] at h
  exact (BitVec.xor_right_inj _).1 (bitsteps_injective hpoly 32 (foldseq_injective hpoly bs h))

/-- A seed acts like seed 0 when its 32 steps come back to the initial accumulator. -/
theorem crc_eq_crc_seed_zero {seed : Word} (bs : List Byte) (h0 : seed ≠ 0)
    (h : bitsteps poly 32 (initialAcc ^^^ seed) = initialAcc) : crc poly bs seed = crc poly bs 0 := by
  rw [crc_of_seed_ne_zero poly bs h0, h, crc_seed_zero]

end

/-! ### One command -/

theorem exec_of_firstFault {i : Instr} {s : State} {c : Cause} (hf : s.f = false) (hc : firstFault i s = c)
    (hne : c ≠ .none) : exec i s = .next (s.raise c) := by
  subst hc
  exact exec_of_fault hf hne

theorem exec_nop (s : State) : exec .nop s = .next s := by
  cases hf : s.f with
  | true => exact exec_of_faulted .nop hf
  | false => exact exec_of_noFault hf rfl

/-- Rule R65 (b) for opcode 0. -/
theorem exists_decode_error_of_nop_operand {imm : Word} (h : imm ≠ 0) : ∃ e, decode (formatC 0x00 imm) = .error e := by
  rw [exists_decode_error_iff_fields, opField_formatC, immField_formatC]
  exact .inr (.inl ⟨.inl rfl, h⟩)

/-! ### A step always answers -/

theorem presentWord_next (w : CommandWord) (s : State) : ∃ t, presentWord w s = .next t := by
  rcases presentWord_cases w s with ⟨-, e⟩ | ⟨-, -, e⟩ | ⟨-, _, -, -, e⟩ | ⟨-, _, -, -, e⟩ <;> exact ⟨_, e⟩

theorem step_next (s : State) : ∃ t, step s = .next t := by
  rcases step_cases s with ⟨-, e⟩ | ⟨rest, -, e⟩ | ⟨w, rest, -, e⟩ | ⟨n, rest, -, e⟩ | ⟨bytes, rest, -, e⟩
  · exact ⟨_, e⟩
  · exact ⟨_, e⟩
  · rw [e]; exact presentWord_next w _
  · exact ⟨_, e⟩
  · exact ⟨_, e⟩

/-! ### A whole checksum as commands -/

section
variable {s : State} {seed size : Word}

/-- What INIT and FSEED leave, with a table in place: the accumulator after the seed step of rule R100. -/
theorem execAll_init_fseed (is : List Instr) (hf : s.f = false) (htv : s.tv = true) :
    execAll (.init :: .fseed seed :: is) s =
      execAll is ((s.writeAcc (seedStep s.table seed initialAcc)).enter .folding) := by
  rw [execAll_cons_of_exec _ (exec_init hf)]
  exact execAll_cons_of_exec is (exec_fseed (s := initAcc s) seed hf rfl htv)

/-- The accumulator that FOLDM leaves is the one FIN complements, and it stays. -/
theorem execAll_foldm_fin (hf : s.f = false) (hp : s.phase = .folding) (htv : s.tv = true)
    (hlen : size.toNat ≤ s.buf.length) : execAll [.foldm size, .fin] s =
      .next (finish (s.writeAcc (foldseq s.table s.acc (s.buf.take size.toNat)))) := by
  rw [execAll_cons_of_exec _ (exec_foldm hf (.inr hp) htv hlen)]
  exact execAll_cons_of_exec [] (exec_fin hf (.inr rfl))

/-- FOLDM faults, and FIN is discarded (R133). -/
theorem execAll_foldm_fin_beyond (hf : s.f = false) (hp : s.phase = .folding) (htv : s.tv = true)
    (hlen : s.buf.length < size.toNat) : execAll [.foldm size, .fin] s = .next (s.raise .invalidLength) := by
  have hfault : firstFault (.foldm size) s = .invalidLength := by simp [firstFault, legalIn, lengthOk, hp, htv, hlen]
  rw [execAll_cons_of_exec _ (exec_of_firstFault hf hfault (by decide))]
  exact execAll_cons_of_exec [] (exec_of_faulted .fin rfl)

/-- COMPUTE up to its FOLDM: the table is built, and the accumulator stands after the seed step. -/
theorem execAll_computeSequence (poly : Word) (hf : s.f = false) : execAll (computeSequence poly size seed) s =
    execAll [.foldm size, .fin]
      (((buildTable poly s).writeAcc (seedStep (crcTable poly) seed initialAcc)).enter .folding) := by
  rw [computeSequence, execAll_cons_of_exec _ (exec_tgen poly hf)]
  exact execAll_init_fseed (s := buildTable poly s) _ hf rfl

end

end Sys2Proof.Machine

/-! ## The obligations about control and whole checksums -/

namespace Sys2Proof.Proofs

open Sys2Proof.Machine

/-- Settles O6: seed 0 has no seed step, and XORing all ones twice cancels. -/
theorem emptyAndUnseededChecksum : Obligations.EmptyAndUnseededChecksum :=
  fun poly => ⟨(crc_seed_zero poly []).trans BitVec.xor_self, crc_seed_zero poly⟩

/-- Settles O7: every entry is 0, and the seed's own four bytes shift the whole accumulator out. -/
theorem zeroPolynomialShifts : Obligations.ZeroPolynomialShifts := by
  refine ⟨foldseq_of_zero_poly, fun bs seed h0 => ?_⟩
  have hlen : 32 ≤ 8 * (seedBytes seed ++ bs).length := by simp [seedBytes]; omega
  rw [crc_eq_crc_seedBytes_append 0 bs h0, crc_seed_zero, foldseq_of_zero_poly, BitVec.ushiftRight_eq_zero hlen]
  exact BitVec.zero_xor

/-- Settles O8: the polynomial's bit 31 is 1, so every fold can be undone; and the 32 steps of seed 0x6DD90A9D come back
to the initial accumulator. -/
theorem standardPolynomialSeedsNeverCollide : Obligations.StandardPolynomialSeedsNeverCollide := by
  have hpoly : (0xEDB88320 : Word).getLsbD 31 = true := by decide
  have hseed (bs : List Byte) : crc 0xEDB88320 bs 0x6DD90A9D = crc 0xEDB88320 bs 0 :=
    crc_eq_crc_seed_zero bs (by decide) (by simp [bitsteps, bitstep, initialAcc])
  refine ⟨fun bs a b ha hb hab h => hab (seed_eq_of_crc_eq hpoly ha hb h), fun bs a ha => ⟨fun h => ?_, ?_⟩⟩
  · exact seed_eq_of_crc_eq hpoly ha (by decide) (h.trans (hseed bs).symm)
  · rintro rfl
    exact hseed bs

/-- Settles O16: the word is taken and counted, and decodes to `i`. -/
theorem stepRunsTheDecodedCommand : Obligations.StepRunsTheDecodedCommand :=
  fun _ _ _ _ hf hp hd => step_of_command hf hp hd

/-- Settles O18, by the host's next action. -/
theorem stepAlwaysAnswersNext : Obligations.StepAlwaysAnswersNext := step_next

/-- Settles O26: the three clauses are the answers of the checks, in their order. -/
theorem phaseTable : Obligations.PhaseTable := by
  refine fun i s hf => ⟨fun hl => ?_, fun hl hn ht => ?_, fun hl ht hn => ?_⟩
  · exact exec_of_firstFault (c := .sequenceError) hf (if_pos hl) (by decide)
  · exact exec_of_firstFault (c := .tableNotValid) hf (by simp [firstFault, hl, hn, ht]) (by decide)
  · have hnone : firstFault i s = .none := (firstFault_eq_none_iff i s).2 ⟨hl, ht, hn⟩
    exact ⟨completed i s, exec_of_noFault hf hnone, (completed_f i s).trans hf, completed_cause i s,
      completed_phase i s⟩

/-- Settles O29: NOP passes every check and writes nothing, and its row of the opcode map is the word 0 alone. -/
theorem nopChangesNothing : Obligations.NopChangesNothing := by
  refine ⟨by decide, exec_nop, fun s imm hf h0 => ?_⟩
  obtain ⟨e, he⟩ := exists_decode_error_of_nop_operand h0
  exact presentWord_of_illegal hf he

/-- Settles O55: the five words run as the five commands; after TGEN the table is in place, FOLDM alone can fault. -/
theorem computeDeliversTheChecksum : Obligations.ComputeDeliversTheChecksum := by
  intro s poly size seed rest hinv hf hp
  obtain ⟨t, hrun, hall⟩ := presentedCommandsRunInOrder _ rest s hp
  have hcause : s.cause = .none := hinv.cause_none_iff.2 hf
  have hfold := execAll_computeSequence (s := { s with port := rest, pc := s.pc + 5 }) (seed := seed) (size := size)
    poly hf
  refine ⟨t, hrun, ?_⟩
  by_cases hlen : size.toNat ≤ s.buf.length
  · cases hall.symm.trans (hfold.trans (execAll_foldm_fin hf rfl rfl hlen))
    exact ⟨lookup_crcTable poly, rfl, rfl, rfl, rfl, rfl,
      fun _ => ⟨⟨hf, rfl⟩, hcause, (xor_finalXor_xor_finalXor _).symm, rfl, rfl⟩,
      fun h => absurd hlen (Nat.not_le_of_lt h)⟩
  · cases hall.symm.trans (hfold.trans (execAll_foldm_fin_beyond hf rfl rfl (Nat.lt_of_not_le hlen)))
    exact ⟨lookup_crcTable poly, rfl, rfl, rfl, rfl, rfl, fun h => absurd h hlen,
      fun _ => ⟨rfl, rfl, rfl, rfl, rfl, rfl⟩⟩

end Sys2Proof.Proofs

/-! ## Faults and the faulted state -/

namespace Sys2Proof.Machine

/-! ### Which check fails -/

section
variable {i : Instr} {s : State}

theorem firstFault_of_not_legalIn (hl : legalIn i s.phase = false) : firstFault i s = .sequenceError := if_pos hl

theorem firstFault_of_noTable (hl : legalIn i s.phase = true) (hn : needsTable i = true) (ht : s.tv = false) :
    firstFault i s = .tableNotValid := by
  simp [firstFault, hl, hn, ht]

theorem firstFault_of_not_lengthOk (hl : legalIn i s.phase = true) (ht : needsTable i = true → s.tv = true)
    (hlen : lengthOk i s = false) : firstFault i s = .invalidLength := by
  have hn : ¬(needsTable i = true ∧ s.tv = false) := fun h => by simp [ht h.1] at h
  simp [firstFault, hl, hn, hlen]

/-- Each answer of the checks, with the condition that fails. -/
theorem firstFault_cases (i : Instr) (s : State) :
    (firstFault i s = .sequenceError ∧ legalIn i s.phase = false) ∨
    (firstFault i s = .tableNotValid ∧ needsTable i = true ∧ s.tv = false) ∨
    (firstFault i s = .invalidLength ∧ lengthOk i s = false) ∨
    firstFault i s = .none := by
  unfold firstFault
  split
  · exact .inl ⟨rfl, ‹_›⟩
  · split
    · exact .inr (.inl ⟨rfl, ‹_›⟩)
    · split
      · exact .inr (.inr (.inl ⟨rfl, ‹_›⟩))
      · exact .inr (.inr (.inr rfl))

/-- InvalidLength is FOLDM's alone (R126). -/
theorem exists_foldm_of_not_lengthOk (h : lengthOk i s = false) :
    ∃ size, i = .foldm size ∧ s.buf.length < size.toNat := by
  cases i with
  | foldm size => exact ⟨size, rfl, by simpa [lengthOk] using h⟩
  | _ => cases h

/-- The commands that some phase refuses (R129). -/
theorem mnemonic_of_not_legalIn {p : Phase} (h : legalIn i p = false) :
    i.mnemonic ∈ ["FSEED", "FOLDB", "FOLDM", "FIN"] := by
  cases i with
  | nop | tgen _ | init => cases h
  | fseed _ | foldb _ | foldm _ | fin => simp [Instr.mnemonic]

/-- The commands that need the table (R128). -/
theorem mnemonic_of_needsTable (h : needsTable i = true) : i.mnemonic ∈ ["FSEED", "FOLDB", "FOLDM"] := by
  cases i with
  | nop | tgen _ | init | fin => cases h
  | fseed _ | foldb _ | foldm _ => simp [Instr.mnemonic]

theorem legalIn_foldb_iff (byte : Byte) (p : Phase) : legalIn (.foldb byte) p = true ↔ p = .inited ∨ p = .folding := by
  simp [legalIn]

theorem legalIn_foldm_iff (size : Word) (p : Phase) : legalIn (.foldm size) p = true ↔ p = .inited ∨ p = .folding := by
  simp [legalIn]

/-- A command that needs the table raises TableNotValid in every phase where it is legal (R128). -/
theorem exec_of_noTable (hf : s.f = false) (hl : legalIn i s.phase = true) (hn : needsTable i = true)
    (ht : s.tv = false) : exec i s = .next (s.raise .tableNotValid) :=
  exec_of_firstFault hf (firstFault_of_noTable hl hn ht) (by decide)

end

/-! ### Fault entry -/

/-- A word that enters the faulted state is illegal, or its command fails a check (R125, R131). -/
theorem presentWord_fault_cases {w : CommandWord} {s t : State} (hf : s.f = false) (h : presentWord w s = .next t)
    (ht : t.f = true) :
    ((∃ e, decode w = .error e) ∧ t = s.raise .illegalCommand) ∨
    (∃ i, decode w = .ok i ∧ firstFault i s ≠ .none ∧ t = s.raise (firstFault i s)) := by
  rcases presentWord_cases w s with ⟨hs, -⟩ | ⟨-, hd, e⟩ | ⟨-, i, hd, hc, e⟩ | ⟨-, i, -, -, e⟩
  · simp [hf] at hs
  · rw [e] at h; cases h; exact .inl ⟨hd, rfl⟩
  · rw [e] at h; cases h; exact .inr ⟨i, hd, hc, rfl⟩
  · rw [e] at h; cases h; simp [hf] at ht

/-- Bit 3 of STATUS is `F` (R31). -/
theorem getLsbD_three_statusWord (s : State) : (statusWord s).getLsbD 3 = s.f := by
  obtain ⟨-, -, hf, -, -⟩ := statusWord_fields s
  simpa using congrArg (·.getLsbD 0) hf

/-! ### Nothing presented -/

theorem run_of_empty {s : State} (h : s.port = []) (n : Nat) : Host.Core.run core n s = .next s := by
  induction n with
  | zero => rfl
  | succ n ih => rw [run_succ_of_step n (step_of_empty h), ih]

end Sys2Proof.Machine

/-! ## The obligations about faults and the faulted state -/

namespace Sys2Proof.Proofs

open Sys2Proof.Machine

/-- Settles O19, by induction on the number of steps. -/
theorem nothingPresentedHoldsTheState : Obligations.NothingPresentedHoldsTheState := fun n _ h => run_of_empty h n

/-- Settles O21: a word and a decoded command are discarded at the first check, and a read does not look at `F`. -/
theorem faultedEngineDiscardsCommands : Obligations.FaultedEngineDiscardsCommands := by
  intro s hf
  refine ⟨fun w rest hp => ?_, fun i => exec_of_faulted i hf, fun n rest hp => ?_, ?_, fun hd => ?_⟩
  · calc step s
        = presentWord w (s.setPort rest).countCommand := step_of_cons hp
      _ = .next (s.setPort rest).countCommand := presentWord_of_faulted w hf
  · exact ⟨readPort n (s.setPort rest), step_of_cons hp, sameEngine_readPort n rest s,
      fun _ hv => readData_readPort ((specifiedRead_setPort n rest s).trans hv)⟩
  · exact (getLsbD_three_statusWord s).trans hf
  · obtain ⟨hnot, -⟩ := hd
    simp [hf] at hnot

/-- Settles O22: of all that a step can do to the engine, a command that completes and one that faults need `F = 0`. -/
theorem onlyResetLeavesTheFaultedState : Obligations.OnlyResetLeavesTheFaultedState := by
  intro s t hf h
  refine ⟨fun hreset => ?_, fun rest hp => ?_⟩
  · rcases step_engine_cases h with ⟨rest, hp, -⟩ | ⟨_, _, _, -, hf', -⟩ | ⟨_, _, _, -, hf', -⟩ | he
    · exact absurd hp (hreset rest)
    · simp [hf] at hf'
    · simp [hf] at hf'
    · exact he
  · rw [step_of_cons hp] at h
    cases h
    exact ⟨rfl, rfl, rfl, rfl⟩

/-- Settles O23: whether the word is illegal or its command fails a check, the next state is `s.raise c`. -/
theorem faultEntryIsPrecise : Obligations.FaultEntryIsPrecise := by
  intro w s t hf h ht
  have hraise : ∃ c, c ≠ .none ∧ t = s.raise c := by
    rcases presentWord_fault_cases hf h ht with ⟨-, e⟩ | ⟨i, -, hc, e⟩
    · exact ⟨_, by decide, e⟩
    · exact ⟨_, hc, e⟩
  obtain ⟨c, hc, rfl⟩ := hraise
  obtain ⟨-, -, -, hcause, -⟩ := statusWord_fields (s.raise c)
  exact ⟨c, hc, rfl, getLsbD_three_statusWord _, hcause⟩

/-- Settles O24, by the check that fails. -/
theorem causesAndTheirConditions : Obligations.CausesAndTheirConditions := by
  refine ⟨fun w s t hf h ht => ?_, rfl, rfl, rfl, rfl, rfl, fun c => Nat.lt_succ_of_le (toNat_causeCode_le c)⟩
  rcases presentWord_fault_cases hf h ht with ⟨hd, rfl⟩ | ⟨i, hd, hc, rfl⟩
  · exact .inr (.inl ⟨rfl, hd⟩)
  · rcases firstFault_cases i s with ⟨e, hl⟩ | ⟨e, hn, htv⟩ | ⟨e, hlen⟩ | e
    · exact .inr (.inr (.inl ⟨e, i, hd, hl, mnemonic_of_not_legalIn hl⟩))
    · exact .inr (.inr (.inr ⟨e, htv, i, hd, mnemonic_of_needsTable hn⟩))
    · obtain ⟨size, rfl, hlt⟩ := exists_foldm_of_not_lengthOk hlen
      exact .inl ⟨e, size, hd, hlt⟩
    · exact absurd e hc

/-- Settles O25: the five clauses are the five answers to a presented word, in the order of the checks. -/
theorem faultPriority : Obligations.FaultPriority := by
  intro w s hf
  refine ⟨fun ⟨_, hd⟩ => presentWord_of_illegal hf hd, fun i hd hl => ?_, fun i hd hl ⟨hn, ht⟩ => ?_,
    fun i hd hl ht hlen => ?_, fun i hd hl ht hlen => ?_⟩ <;> rw [presentWord_of_ok hf hd]
  · exact exec_of_firstFault hf (firstFault_of_not_legalIn hl) (by decide)
  · exact exec_of_noTable hf hl hn ht
  · exact exec_of_firstFault hf (firstFault_of_not_lengthOk hl ht hlen) (by decide)
  · exact ⟨completed i s, exec_of_noFault hf ((firstFault_eq_none_iff i s).2 ⟨hl, ht, hlen⟩),
      (completed_f i s).trans hf, completed_cause i s⟩

/-- Settles O27: with phase and table in order the length check alone decides. -/
theorem foldmBeyondTheBuffer : Obligations.FoldmBeyondTheBuffer := by
  refine fun s size hf hp htv => ⟨fun hlt => ?_, fun hle => ⟨_, exec_foldm hf hp htv hle, hf⟩⟩
  have hlen : lengthOk (.foldm size) s = false := by simpa [lengthOk] using hlt
  have hl := (legalIn_foldm_iff size s.phase).2 hp
  exact exec_of_firstFault hf (firstFault_of_not_lengthOk hl (fun _ => htv) hlen) (by decide)

/-- Settles O28: the check of `TV` comes before any use of the operand. -/
theorem foldsNeedTheTable : Obligations.FoldsNeedTheTable := by
  refine ⟨rfl, fun s hf ht => ⟨fun hp seed => ?_, fun hp => ⟨fun byte => ?_, fun size => ?_⟩⟩⟩
  · exact exec_of_noTable hf (by simp [legalIn, hp]) rfl ht
  · exact exec_of_noTable hf ((legalIn_foldb_iff byte s.phase).2 hp) rfl ht
  · exact exec_of_noTable hf ((legalIn_foldm_iff size s.phase).2 hp) rfl ht

end Sys2Proof.Proofs

/-! ## What commands one after another keep -/

namespace Sys2Proof.Machine

/-! ### The induction -/

/-- What a fault keeps, and what each of the commands keeps where it completes, stands after all of them: the discarded
ones change nothing (R133). -/
theorem execAll_keeps {P : State → Prop} {is : List Instr} {s : State}
    (hraise : ∀ u c, P u → P (u.raise c))
    (hcompleted : ∀ i ∈ is, ∀ u, P u → firstFault i u = .none → P (completed i u)) (hs : P s) :
    ∃ t, execAll is s = .next t ∧ P t := by
  induction is generalizing s with
  | nil => exact ⟨s, rfl, hs⟩
  | cons i is ih =>
    obtain ⟨hi, his⟩ := List.forall_mem_cons.1 hcompleted
    have hexec : ∃ u, exec i s = .next u ∧ P u := by
      rcases exec_cases i s with ⟨-, he⟩ | ⟨-, -, he⟩ | ⟨-, hc, he⟩
      · exact ⟨s, he, hs⟩
      · exact ⟨_, he, hraise s _ hs⟩
      · exact ⟨_, he, hi s hs hc⟩
    obtain ⟨u, hu, hPu⟩ := hexec
    rw [execAll_cons_of_exec is hu]
    exact ih his hPu

/-! ### Rows of the table of rule R112 -/

theorem nop_or_tgen_of_legalIn_idle {i : Instr} (hl : legalIn i .idle = true) (hi : i ≠ .init) :
    i = .nop ∨ ∃ p, i = .tgen p := by
  cases i with
  | nop => exact .inl rfl
  | tgen p => exact .inr ⟨p, rfl⟩
  | init => exact absurd rfl hi
  | _ => cases hl

theorem eq_nop_of_legalIn_done {i : Instr} (hl : legalIn i .done = true) (hi : i ≠ .init) (ht : ∀ p, i ≠ .tgen p) :
    i = .nop := by
  cases i with
  | nop => rfl
  | tgen p => exact absurd rfl (ht p)
  | init => exact absurd rfl hi
  | _ => cases hl

/-! ### IDLE until INIT -/

/-- The engine is in IDLE and holds these values of ACC and RESULT. -/
def State.IdleHolding (acc result : Word) (s : State) : Prop := s.phase = .idle ∧ s.acc = acc ∧ s.result = result

/-- In IDLE NOP and TGEN alone complete without INIT, and neither writes ACC or RESULT or leaves IDLE. -/
theorem State.IdleHolding.completed {acc result : Word} {i : Instr} {s : State} (h : s.IdleHolding acc result)
    (hi : i ≠ .init) (hc : firstFault i s = .none) : (completed i s).IdleHolding acc result := by
  obtain ⟨hl, -, -⟩ := (firstFault_eq_none_iff i s).1 hc
  obtain ⟨hphase, hregs⟩ := h
  rcases nop_or_tgen_of_legalIn_idle (hphase ▸ hl) hi with rfl | ⟨p, rfl⟩
  · exact ⟨hphase, hregs⟩
  · exact ⟨rfl, hregs⟩

/-! ### No fold without a table -/

/-- There is no table, and ACC holds this value or its initial one. -/
def State.Unfolded (acc : Word) (s : State) : Prop := s.tv = false ∧ (s.acc = acc ∨ s.acc = initialAcc)

/-- Without a table no fold command completes, and INIT alone of the others writes ACC. -/
theorem State.Unfolded.completed {acc : Word} {i : Instr} {s : State} (h : s.Unfolded acc) (hi : ∀ p, i ≠ .tgen p)
    (hc : firstFault i s = .none) : (completed i s).Unfolded acc := by
  obtain ⟨-, hneeds, -⟩ := (firstFault_eq_none_iff i s).1 hc
  obtain ⟨htv, hacc⟩ := h
  have hnot : needsTable i ≠ true := fun hn => by simp [hneeds hn] at htv
  cases i with
  | tgen p => exact absurd rfl (hi p)
  | nop | fin => exact ⟨htv, hacc⟩
  | init => exact ⟨htv, .inr rfl⟩
  | fseed _ | foldb _ | foldm _ => exact absurd rfl hnot

/-! ### DONE until INIT or TGEN -/

/-- The engine is in DONE and RESULT holds this value. -/
def State.DoneHolding (result : Word) (s : State) : Prop := s.phase = .done ∧ s.result = result

/-- In DONE NOP alone completes without INIT and TGEN. -/
theorem State.DoneHolding.completed {result : Word} {i : Instr} {s : State} (h : s.DoneHolding result)
    (hi : i ≠ .init) (ht : ∀ p, i ≠ .tgen p) (hc : firstFault i s = .none) : (completed i s).DoneHolding result := by
  obtain ⟨hl, -, -⟩ := (firstFault_eq_none_iff i s).1 hc
  obtain rfl := eq_nop_of_legalIn_done (h.1 ▸ hl) hi ht
  exact h

/-! ### Reset -/

/-- After the reset action STATUS is what it is in the reset state (R34, R150). -/
theorem statusWord_resetEngine (s : State) : statusWord s.resetEngine = 0 :=
  calc statusWord s.resetEngine
      = statusWord State.reset := statusWord_congr rfl rfl rfl rfl
    _ = 0 := rfl

/-! ### Whole checksums without TGEN -/

/-- With nothing folded FIN delivers the complement of the initial accumulator (R93, R99). -/
theorem execAll_init_fin {s : State} (hf : s.f = false) : execAll [.init, .fin] s = .next (finish (initAcc s)) := by
  rw [execAll_cons_of_exec _ (exec_init hf)]
  exact execAll_cons_of_exec [] (exec_fin hf (.inl rfl))

/-- With a table in place the four commands of a checksum deliver, and leave the table as it is. -/
theorem execAll_init_fseed_foldm_fin {s : State} {size : Word} (seed : Word) (hf : s.f = false) (htv : s.tv = true)
    (hlen : size.toNat ≤ s.buf.length) : execAll [.init, .fseed seed, .foldm size, .fin] s =
      .next (finish ((s.writeAcc
        (foldseq s.table (seedStep s.table seed initialAcc) (s.buf.take size.toNat))).enter .folding)) := by
  rw [execAll_init_fseed _ hf htv]
  exact execAll_foldm_fin hf rfl htv hlen

/-- With `TV = 1` the invariant makes the table that of POLY (R84). -/
theorem State.Inv.table_eq_crcTable {s : State} (h : s.Inv) (htv : s.tv = true) : s.table = crcTable s.poly :=
  table_ext fun i => (h.table_of_poly htv i).trans (lookup_crcTable s.poly i).symm

end Sys2Proof.Machine

/-! ## The obligations about reset and hazards -/

namespace Sys2Proof.Proofs

open Sys2Proof.Machine

/-- Settles O43: the reset is taken from the queue, and with no table and in IDLE nothing but STATUS is specified. -/
theorem resetFromEveryState : Obligations.ResetFromEveryState := by
  intro s rest hp
  have hstatus := statusWord_resetEngine (s.setPort rest)
  refine ⟨(s.setPort rest).resetEngine, step_of_cons hp, rfl, rfl, rfl, rfl, hstatus, fun n => ?_, rfl, rfl, rfl, rfl⟩
  rw [specifiedRead_of_idle_of_noTable n rfl rfl, hstatus]

/-- Settles O50: TGEN ends in IDLE with ACC and RESULT kept, and so does every command after it but INIT. -/
theorem tgenAbandonsTheChecksum : Obligations.TgenAbandonsTheChecksum := by
  intro s poly is hf his
  have hbuilt : (buildTable poly s).IdleHolding s.acc s.result := ⟨rfl, rfl, rfl⟩
  rw [execAll_cons_of_exec is (exec_tgen poly hf)]
  exact execAll_keeps (P := State.IdleHolding s.acc s.result) (fun _ _ h => h)
    (fun i hi _ h hc => h.completed (his i hi) hc) hbuilt

/-- Settles O51, by what is kept where there is no table. -/
theorem nothingFoldedWithoutTgen : Obligations.NothingFoldedWithoutTgen := by
  intro s is htv his
  have hstart : s.Unfolded s.acc := ⟨htv, .inl rfl⟩
  exact execAll_keeps (P := State.Unfolded s.acc) (fun _ _ h => h) (fun i hi _ h hc => h.completed (his i hi) hc) hstart

/-- Settles O52, by what is kept in DONE, where number 1 is specified as RESULT. -/
theorem resultStandsUntilInitOrTgen : Obligations.ResultStandsUntilInitOrTgen := by
  intro s is hp his
  have hstart : s.DoneHolding s.result := ⟨hp, rfl⟩
  obtain ⟨t, ht, hphase, hresult⟩ := execAll_keeps (P := State.DoneHolding s.result) (fun _ _ h => h)
    (fun i hi _ h hc => h.completed (his i hi).1 (his i hi).2 hc) hstart
  exact ⟨t, ht, hphase, hresult, hresult ▸ specifiedRead_result hphase⟩

/-- Settles O53: INIT sets all ones and FIN inverts them, whatever TGEN built before. -/
theorem shortestSequencesDeliverZero : Obligations.ShortestSequencesDeliverZero := by
  have hdeliver (u : State) (hf : u.f = false) :
      ∃ t, execAll [.init, .fin] u = .next t ∧ t.delivered ∧ t.result = 0 :=
    ⟨_, execAll_init_fin hf, ⟨hf, rfl⟩, BitVec.xor_self⟩
  refine fun s poly hf => ⟨?_, hdeliver s hf⟩
  rw [execAll_cons_of_exec _ (exec_tgen poly hf)]
  exact hdeliver (buildTable poly s) hf

/-- Settles O54: the four commands fold with the table in place, which the invariant makes the table of POLY. -/
theorem tableServesFurtherChecksums : Obligations.TableServesFurtherChecksums := by
  intro s seed size hinv hf htv hlen
  refine ⟨_, execAll_init_fseed_foldm_fin seed hf htv hlen, ⟨hf, rfl⟩, ?_, rfl, rfl, htv⟩
  rw [crc, ← hinv.table_eq_crcTable htv]
  rfl

end Sys2Proof.Proofs
